-- ==== Sys2Proof/Word.lean ====
section
/-! DEFINITION. The types of the machine's values (spec 00 R6, R14): bytes, 16-bit words, 12-bit addresses and
register indexes. -/

namespace Sys2Proof

/-- An 8-bit value: a general register, a timer, a memory byte (R6). -/
abbrev Byte := BitVec 8

/-- A 16-bit value: an instruction word, `I`, `PC`, a return address (R6). -/
abbrev Word := BitVec 16

/-- A 12-bit address field (R6, R80). -/
abbrev Addr := BitVec 12

/-- The index of one of the 16 general registers or of one of the 16 keys (R6, R22). -/
abbrev RegIdx := Fin 16

/-- `VF`, the register that also holds the flag (R23). -/
abbrev vf : RegIdx := 15

end Sys2Proof
end

