-- ==== Sys2Proof/Config.lean ====
section
/-! DEFINITION. What one build of the core fixes (the parameters of spec 00 R8 and R9) and the free values: the draws
the spec leaves open, as constants without a body. -/

namespace Sys2Proof

/-- `OPSET` (R9, R91): the 34 base operations, or only the six the source defines. -/
inductive OpSet where
  | full
  | min6
  deriving DecidableEq, Repr

/-- `SHIFT_SRC` (R9, R128, R130): the operand that the shifts shift. -/
inductive ShiftSrc where
  | vy
  | vx
  deriving DecidableEq, Repr

/-- `JUMP_OFFSET_REG` (R9, R108): the register BNNN adds to its target. -/
inductive JumpOffsetReg where
  | v0
  | vx
  deriving DecidableEq, Repr

/-- `RESET_POLICY` (R9, R42): zero after reset, or no value until written. -/
inductive ResetPolicy where
  | zero
  | unwrittenFaults
  deriving DecidableEq, Repr

/-- `KEY_WAIT` (R9, R191, R192): FX0A completes on any pressed key, or only on a newly pressed one. -/
inductive KeyWait where
  | level
  | edge
  deriving DecidableEq, Repr

/-- `ON_CONDITION` (R9, R206): what the core does after it has reported a condition. -/
inductive OnCondition where
  | halt
  | proceed
  deriving DecidableEq, Repr

/-- The implementation parameters of R9 and R8. `stackCap = none` is the unbounded stack. -/
structure Params where
  opset         : OpSet
  shiftSrc      : ShiftSrc
  logicVfReset  : Bool
  memIncrI      : Bool
  jumpOffsetReg : JumpOffsetReg
  fontBase      : Addr
  resetPolicy   : ResetPolicy
  stackCap      : Option Nat
  keyWait       : KeyWait
  onCondition   : OnCondition
  deriving DecidableEq, Repr

/-- The defaults of R9's table. -/
def Params.defaults : Params where
  opset         := .full
  shiftSrc      := .vy
  logicVfReset  := true
  memIncrI      := true
  jumpOffsetReg := .v0
  fontBase      := 0x050#12
  resetPolicy   := .zero
  stackCap      := none
  keyWait       := .level
  onCondition   := .halt

/-- FREE VALUE (log 3). The byte on the `rand` input at the `n`-th draw, where the host has queued none: "a draw the
model does not fix" (R135, R40). -/
opaque Config.freeRand : Nat → Byte

/-- FREE VALUE (log 4). The draw by which `choose_key` picks among the eligible keys at the `n`-th draw, where the
host has queued none: "a draw the model does not fix" (R191). -/
opaque Config.freeKeyPick : Nat → Nat

end Sys2Proof
end

