-- ==== Sys2Proof/Machine/State.lean ====
section
/-! DEFINITION. The state of the core as plain data (spec 10 R20, R21), the reasons a step can stop, and the state
after reset (R41). -/

namespace Sys2Proof.Machine

/-- `Mem`: the bytes that differ from the reset contents, by rising address (log 15). -/
abbrev Memory := List Host.Cell

/-- `Fb`: 32 rows of 64 pixels, row 0 on top, column 0 on the left, `true` is on (R37). -/
abbrev Framebuffer := Vector (Vector Bool 64) 32

/-- The buffer with every pixel off (R41, R170). -/
def Framebuffer.blank : Framebuffer := Vector.replicate 32 (Vector.replicate 64 false)

/-- `Cpu`, the run state (R36). -/
inductive Cpu where
  /-- The next `instr_tick` fetches. -/
  | ready
  /-- Suspended on FX0A: the key will go to `V[x]`. -/
  | waiting (x : RegIdx)
  /-- A condition was reported under `ON_CONDITION = halt`. -/
  | halted
  deriving DecidableEq, Repr

/-- The conditions the core reports (60 R200, codes 1 to 4). -/
inductive Condition where
  /-- R201 -/
  | unimplemented
  /-- R202 -/
  | stackUnderflow
  /-- R203 -/
  | stackOverflow
  /-- R204 -/
  | unwrittenRead
  deriving DecidableEq, Repr

/-- The outcome of the last `instr_tick` (60 R200). -/
inductive StatusCode where
  | ok
  | reported (c : Condition)
  | waiting
  | halted
  deriving DecidableEq, Repr

/-- `Status`: the outcome and `cond_word` (R21, 60 R200). -/
structure Status where
  code : StatusCode
  word : Word
  deriving DecidableEq, Repr

/-- One atomic step of an agent (70 R240, 00 R11, R17; log 2). -/
inductive HostMove where
  /-- The scheduler strobes `instr_tick` (30 R85). -/
  | instrTick
  /-- The scheduler strobes `timer_tick` (44 R195). -/
  | timerTick
  /-- The input adapter changes `keys` (44 R197). -/
  | setKeys (keys : Word)
  /-- The render adapter reads one pixel (43 R174). -/
  | fbRead (row : Fin 32) (col : Fin 64)
  /-- The loader writes one byte through `ld_we`, `ld_addr`, `ld_data` (70 R232). -/
  | loadByte (addr : Addr) (data : Byte)
  /-- The loader deposits a whole image from 0x200 (70 R232). -/
  | load (image : List Byte)
  /-- `rst` is asserted (70 R230, R231). -/
  | rst
  deriving DecidableEq, Repr

/-- What the outside will still do: the MODEL's own field, not the core's state (log 2, log 3, log 4). -/
structure Inputs where
  /-- The moves of the agents, next first; when empty, the instruction loop ticks. -/
  moves    : List HostMove
  /-- The values on the `rand` input at the coming draws, next first. -/
  rand     : List Byte
  /-- The draws of `choose_key` to come, next first. -/
  keyPicks : List Nat
  /-- How many draws were taken: the argument of the free values. -/
  drawn    : Nat
  deriving DecidableEq, Repr

/-- The `written` bits of `RESET_POLICY = unwritten_faults` (R21, R42; log 10). -/
structure WrittenBits where
  /-- Bit `i` for `V[i]`. -/
  regs  : Word
  index : Bool
  delay : Bool
  sound : Bool
  /-- The addresses written since reset, rising. -/
  mem   : List Nat
  deriving DecidableEq, Repr

/-- The machine state (R20, R21). -/
structure State where
  /-- The parameters of R9, which no step changes (log 1). -/
  params   : Params
  /-- `Mem` (R21, 20 R60). -/
  mem      : Memory
  /-- `V0`..`VF` (R22). -/
  v        : Vector Byte 16
  /-- `I` (R25). -/
  i        : Word
  /-- `PC` (R27). -/
  pc       : Word
  /-- `Stack`, oldest entry first (R34). -/
  stack    : List Word
  /-- `Fb` (R37). -/
  fb       : Framebuffer
  /-- `DT` (R35). -/
  dt       : Byte
  /-- `ST` (R35). -/
  st       : Byte
  /-- `Key`: bit `k` is 1 while key `k` is pressed (R38, 44 R197). -/
  keys     : Word
  /-- `KeyPrev`, used under `KEY_WAIT = edge` (R21). -/
  keyPrev  : Word
  /-- `Cpu` (R36). -/
  cpu      : Cpu
  /-- `Status` (R21, 60 R200). -/
  status   : Status
  /-- The `beep` output (00 R11, 44 R196; log 7). -/
  beep     : Bool
  /-- The `written` bits (R42). -/
  written  : WrittenBits
  /-- No `instr_tick` since reset: the loader may still write (70 R232; log 9). -/
  loadOpen : Bool
  /-- What the outside will still do. -/
  inputs   : Inputs
  deriving DecidableEq, Repr

/-- Why the machine stops. -/
inductive Fault where
  /-- Raised by `step` in a state whose parameters lie outside the ranges of 00 R9 (a font outside the reserved
  region, a stack of capacity 0): the spec describes no such core. SAFE: the model stops (log 12). -/
  | illegalParameters
  deriving DecidableEq, Repr

/-- Why the model has no move. -/
inductive Refusal where
  /-- Raised by `exec` for an instruction without a meaning, of which there is none. SAFE. -/
  | notModelled (mnemonic : String)
  /-- Raised by the loader moves after the first `instr_tick`: "has no move in the model" (70 R232, 93 U14). SAFE
  (log 9). -/
  | loadAfterStart
  /-- Raised by the move `loadByte` at an address below 0x200: the loader writes "from 0x200" (00 R17). SAFE
  (log 9). -/
  | loadOutsideProgramArea
  /-- Raised by the move `load` for an image longer than 3584 bytes: the model "refuses the launch" (70 R232,
  93 U13). SAFE (log 9). -/
  | imageTooLong
  deriving DecidableEq, Repr

/-- No bit set: what `written` holds after reset (R42), and always under `RESET_POLICY = zero` (log 10). -/
def WrittenBits.clear : WrittenBits := ⟨0, false, false, false, []⟩

/-- Nothing queued, nothing drawn (log 2, log 3, log 4). -/
def Inputs.none : Inputs := ⟨[], [], [], 0⟩

/-- The state right after `rst` in a build with parameters `p` (R41, 70 R230), with no key pressed and nothing queued. -/
def State.resetWith (p : Params) : State where
  params   := p
  mem      := []
  v        := Vector.replicate 16 0
  i        := 0
  pc       := 0x0200#16
  stack    := []
  fb       := Framebuffer.blank
  dt       := 0
  st       := 0
  keys     := 0
  keyPrev  := 0
  cpu      := .ready
  status   := ⟨.ok, 0⟩
  beep     := false
  written  := .clear
  loadOpen := true
  inputs   := .none

/-- The state right after reset, with the default parameters (R41, R9). -/
def State.reset : State := State.resetWith Params.defaults

end Sys2Proof.Machine
end

