-- ==== Sys2Proof/Syntax.lean ====
section
/-! DEFINITION. The instructions: one constructor for each of the 34 rows of opcode_table.json (spec 30 R86), with the
operand fields of R80 and R81. -/

namespace Sys2Proof

/-- An instruction of the base CHIP-8 set (R2, R86). -/
inductive Instr where
  /-- 00E0, R172 -/
  | cls
  /-- 00EE, R101 -/
  | ret
  /-- 1NNN, R102 -/
  | jp (nnn : Addr)
  /-- 2NNN, R103 -/
  | call (nnn : Addr)
  /-- 3XNN, R104 -/
  | seImm (x : RegIdx) (nn : Byte)
  /-- 4XNN, R105 -/
  | sneImm (x : RegIdx) (nn : Byte)
  /-- 5XY0, R106 -/
  | seReg (x y : RegIdx)
  /-- 6XNN, R120 -/
  | ldImm (x : RegIdx) (nn : Byte)
  /-- 7XNN, R121 -/
  | addImm (x : RegIdx) (nn : Byte)
  /-- 8XY0, R122 -/
  | ldReg (x y : RegIdx)
  /-- 8XY1, R123 -/
  | orReg (x y : RegIdx)
  /-- 8XY2, R124 -/
  | andReg (x y : RegIdx)
  /-- 8XY3, R125 -/
  | xorReg (x y : RegIdx)
  /-- 8XY4, R126 -/
  | addReg (x y : RegIdx)
  /-- 8XY5, R127 -/
  | subReg (x y : RegIdx)
  /-- 8XY6, R128 -/
  | shr (x y : RegIdx)
  /-- 8XY7, R129 -/
  | subnReg (x y : RegIdx)
  /-- 8XYE, R130 -/
  | shl (x y : RegIdx)
  /-- 9XY0, R107 -/
  | sneReg (x y : RegIdx)
  /-- ANNN, R150 -/
  | ldI (nnn : Addr)
  /-- BNNN, R108 -/
  | jpOffset (nnn : Addr)
  /-- CXNN, R135 -/
  | rnd (x : RegIdx) (nn : Byte)
  /-- DXYN, R173; `n` is the row count, 0 to 15 (R82) -/
  | drw (x y : RegIdx) (n : Fin 16)
  /-- EX9E, R186 -/
  | skp (x : RegIdx)
  /-- EXA1, R187 -/
  | sknp (x : RegIdx)
  /-- FX07, R188 -/
  | ldVxDt (x : RegIdx)
  /-- FX0A, R191 -/
  | ldVxK (x : RegIdx)
  /-- FX15, R189 -/
  | ldDtVx (x : RegIdx)
  /-- FX18, R190 -/
  | ldStVx (x : RegIdx)
  /-- FX1E, R151 -/
  | addI (x : RegIdx)
  /-- FX29, R152 -/
  | ldFont (x : RegIdx)
  /-- FX33, R153 -/
  | ldBcd (x : RegIdx)
  /-- FX55, R154 -/
  | storeRegs (x : RegIdx)
  /-- FX65, R155 -/
  | loadRegs (x : RegIdx)
  deriving DecidableEq, Repr

end Sys2Proof
end

