-- ==== Sys2Proof/WellFormed.lean ====
section
/-! DEFINITION. The checks on data that the types leave open: an instruction against the operation set of the build,
the parameters against the ranges of spec 00 R9, a program image against the room of 70 R232. The operand fields of an
instruction need no check: their types hold exactly the values of the fields of 30 R80. -/

namespace Sys2Proof

/-- The six operations the source defines (R3, R91). -/
def Instr.inMin6 : Instr → Bool
  | .cls => true
  | .ret => false
  | .jp _ => true
  | .call _ => false
  | .seImm _ _ => false
  | .sneImm _ _ => false
  | .seReg _ _ => false
  | .ldImm _ _ => true
  | .addImm _ _ => true
  | .ldReg _ _ => false
  | .orReg _ _ => false
  | .andReg _ _ => false
  | .xorReg _ _ => false
  | .addReg _ _ => false
  | .subReg _ _ => false
  | .shr _ _ => false
  | .subnReg _ _ => false
  | .shl _ _ => false
  | .sneReg _ _ => false
  | .ldI _ => true
  | .jpOffset _ => false
  | .rnd _ _ => false
  | .drw _ _ _ => true
  | .skp _ => false
  | .sknp _ => false
  | .ldVxDt _ => false
  | .ldVxK _ => false
  | .ldDtVx _ => false
  | .ldStVx _ => false
  | .addI _ => false
  | .ldFont _ => false
  | .ldBcd _ => false
  | .storeRegs _ => false
  | .loadRegs _ => false

/-- An instruction the build has: every one under `OPSET = full`, the six under `OPSET = min6` (R91). -/
def Instr.wf (o : OpSet) (i : Instr) : Bool :=
  match o with
  | .full => true
  | .min6 => i.inMin6

/-- The font lies inside the reserved region: `FONT_BASE + 80 <= 0x200` (R9, R67). -/
def Params.fontFits (p : Params) : Bool := decide (p.fontBase.toNat + 80 ≤ 0x200)

/-- `STACK_CAP` is a positive integer or unbounded (R9). -/
def Params.capPositive (p : Params) : Bool :=
  match p.stackCap with
  | none => true
  | some n => decide (0 < n)

/-- The parameter values R9 allows. -/
def Params.wf (p : Params) : Bool := p.fontFits && p.capPositive

/-- A program image that has room from 0x200 to 0xFFF: at most 3584 bytes (R232). -/
def imageFits (image : List Byte) : Bool := decide (image.length ≤ 3584)

end Sys2Proof
end

