-- ==== Sys2Proof/Decode.lean ====
section
/-! DEFINITION. The instruction decoder (spec 30 R80 to R94): the fields of a word, the opcode map, the words that do
not decode, and the encoder written from the same map. -/

namespace Sys2Proof

/-! The fields of R80. -/

/-- `itype = w[15:12]` (R80). -/
def fieldItype (w : Word) : BitVec 4 := w.extractLsb' 12 4

/-- `x = w[11:8]`, a register index (R80). -/
def fieldX (w : Word) : RegIdx := (w.extractLsb' 8 4).toFin

/-- `y = w[7:4]`, a register index (R80). -/
def fieldY (w : Word) : RegIdx := (w.extractLsb' 4 4).toFin

/-- `n = w[3:0]` (R80). -/
def fieldN (w : Word) : BitVec 4 := w.extractLsb' 0 4

/-- `nn = w[7:0]` (R80). -/
def fieldNN (w : Word) : Byte := w.extractLsb' 0 8

/-- `nnn = w[11:0]` (R80). -/
def fieldNNN (w : Word) : Addr := w.extractLsb' 0 12

/-- Why the decoder gives no instruction. -/
inductive Reject where
  /-- The word has no execute handler in this build (R91, R92, R201). -/
  | unimplemented (w : Word)
  /-- Fewer than the two bytes of an instruction are there (R94). -/
  | truncated
  deriving DecidableEq, Repr

/-- Itype 0 compares the whole word (R87). -/
def decodeItype0 (w : Word) : Except Reject Instr :=
  if w = 0x00E0#16 then .ok .cls
  else if w = 0x00EE#16 then .ok .ret
  else .error (.unimplemented w)

/-- Itype 8 selects on `n` (R88). -/
def decodeItype8 (w : Word) : Except Reject Instr :=
  match (fieldN w).toNat with
  | 0x0 => .ok (.ldReg (fieldX w) (fieldY w))
  | 0x1 => .ok (.orReg (fieldX w) (fieldY w))
  | 0x2 => .ok (.andReg (fieldX w) (fieldY w))
  | 0x3 => .ok (.xorReg (fieldX w) (fieldY w))
  | 0x4 => .ok (.addReg (fieldX w) (fieldY w))
  | 0x5 => .ok (.subReg (fieldX w) (fieldY w))
  | 0x6 => .ok (.shr (fieldX w) (fieldY w))
  | 0x7 => .ok (.subnReg (fieldX w) (fieldY w))
  | 0xE => .ok (.shl (fieldX w) (fieldY w))
  | _ => .error (.unimplemented w)

/-- Itype E selects on `nn` (R88). -/
def decodeItypeE (w : Word) : Except Reject Instr :=
  match (fieldNN w).toNat with
  | 0x9E => .ok (.skp (fieldX w))
  | 0xA1 => .ok (.sknp (fieldX w))
  | _ => .error (.unimplemented w)

/-- Itype F selects on `nn` (R88). -/
def decodeItypeF (w : Word) : Except Reject Instr :=
  match (fieldNN w).toNat with
  | 0x07 => .ok (.ldVxDt (fieldX w))
  | 0x0A => .ok (.ldVxK (fieldX w))
  | 0x15 => .ok (.ldDtVx (fieldX w))
  | 0x18 => .ok (.ldStVx (fieldX w))
  | 0x1E => .ok (.addI (fieldX w))
  | 0x29 => .ok (.ldFont (fieldX w))
  | 0x33 => .ok (.ldBcd (fieldX w))
  | 0x55 => .ok (.storeRegs (fieldX w))
  | 0x65 => .ok (.loadRegs (fieldX w))
  | _ => .error (.unimplemented w)

/-- The opcode map under `OPSET = full` (R86, R89, R90). -/
def decodeFull (w : Word) : Except Reject Instr :=
  match (fieldItype w).toNat with
  | 0x0 => decodeItype0 w
  | 0x1 => .ok (.jp (fieldNNN w))
  | 0x2 => .ok (.call (fieldNNN w))
  | 0x3 => .ok (.seImm (fieldX w) (fieldNN w))
  | 0x4 => .ok (.sneImm (fieldX w) (fieldNN w))
  | 0x5 => if fieldN w = 0#4 then .ok (.seReg (fieldX w) (fieldY w)) else .error (.unimplemented w)
  | 0x6 => .ok (.ldImm (fieldX w) (fieldNN w))
  | 0x7 => .ok (.addImm (fieldX w) (fieldNN w))
  | 0x8 => decodeItype8 w
  | 0x9 => if fieldN w = 0#4 then .ok (.sneReg (fieldX w) (fieldY w)) else .error (.unimplemented w)
  | 0xA => .ok (.ldI (fieldNNN w))
  | 0xB => .ok (.jpOffset (fieldNNN w))
  | 0xC => .ok (.rnd (fieldX w) (fieldNN w))
  | 0xD => .ok (.drw (fieldX w) (fieldY w) (fieldN w).toFin)
  | 0xE => decodeItypeE w
  | 0xF => decodeItypeF w
  | _ => .error (.unimplemented w)

/-- `decode(w)` of R86, total: one operation of the build, or `Unimplemented`. -/
def decode (o : OpSet) (w : Word) : Except Reject Instr :=
  match decodeFull w with
  | .ok i => if i.wf o then .ok i else .error (.unimplemented w)
  | .error r => .error r

/-- The instruction word of two bytes in memory order: the first byte is the high byte (R65, R83). -/
def wordOfBytes (hi lo : Byte) : Word := hi ++ lo

/-- Decode the first instruction of a list of bytes, and give the rest (R94: every instruction is 2 bytes). -/
def decodeBytes (o : OpSet) : List Byte → Except Reject (Instr × List Byte)
  | hi :: lo :: rest =>
    match decode o (wordOfBytes hi lo) with
    | .ok i => .ok (i, rest)
    | .error r => .error r
  | _ => .error .truncated

/-! The encoder, by the operand shapes of R81. -/

/-- The shape `NNN` (R81). -/
def encodeNNN (itype : BitVec 4) (nnn : Addr) : Word := itype ++ nnn

/-- The shape `XNN` (R81), and the shape `X`, whose `nn` is fixed. -/
def encodeXNN (itype : BitVec 4) (x : RegIdx) (nn : Byte) : Word :=
  itype ++ ((BitVec.ofFin x : BitVec 4) ++ nn)

/-- The shape `XYN` (R81), and the shape `XY0`, whose `n` is fixed. -/
def encodeXYN (itype : BitVec 4) (x y : RegIdx) (n : BitVec 4) : Word :=
  itype ++ ((BitVec.ofFin x : BitVec 4) ++ ((BitVec.ofFin y : BitVec 4) ++ n))

/-- The word of an instruction (R86). -/
def encode : Instr → Word
  | .cls => 0x00E0#16
  | .ret => 0x00EE#16
  | .jp nnn => encodeNNN 0x1#4 nnn
  | .call nnn => encodeNNN 0x2#4 nnn
  | .seImm x nn => encodeXNN 0x3#4 x nn
  | .sneImm x nn => encodeXNN 0x4#4 x nn
  | .seReg x y => encodeXYN 0x5#4 x y 0x0#4
  | .ldImm x nn => encodeXNN 0x6#4 x nn
  | .addImm x nn => encodeXNN 0x7#4 x nn
  | .ldReg x y => encodeXYN 0x8#4 x y 0x0#4
  | .orReg x y => encodeXYN 0x8#4 x y 0x1#4
  | .andReg x y => encodeXYN 0x8#4 x y 0x2#4
  | .xorReg x y => encodeXYN 0x8#4 x y 0x3#4
  | .addReg x y => encodeXYN 0x8#4 x y 0x4#4
  | .subReg x y => encodeXYN 0x8#4 x y 0x5#4
  | .shr x y => encodeXYN 0x8#4 x y 0x6#4
  | .subnReg x y => encodeXYN 0x8#4 x y 0x7#4
  | .shl x y => encodeXYN 0x8#4 x y 0xE#4
  | .sneReg x y => encodeXYN 0x9#4 x y 0x0#4
  | .ldI nnn => encodeNNN 0xA#4 nnn
  | .jpOffset nnn => encodeNNN 0xB#4 nnn
  | .rnd x nn => encodeXNN 0xC#4 x nn
  | .drw x y n => encodeXYN 0xD#4 x y (BitVec.ofFin n)
  | .skp x => encodeXNN 0xE#4 x 0x9E#8
  | .sknp x => encodeXNN 0xE#4 x 0xA1#8
  | .ldVxDt x => encodeXNN 0xF#4 x 0x07#8
  | .ldVxK x => encodeXNN 0xF#4 x 0x0A#8
  | .ldDtVx x => encodeXNN 0xF#4 x 0x15#8
  | .ldStVx x => encodeXNN 0xF#4 x 0x18#8
  | .addI x => encodeXNN 0xF#4 x 0x1E#8
  | .ldFont x => encodeXNN 0xF#4 x 0x29#8
  | .ldBcd x => encodeXNN 0xF#4 x 0x33#8
  | .storeRegs x => encodeXNN 0xF#4 x 0x55#8
  | .loadRegs x => encodeXNN 0xF#4 x 0x65#8

/-- The first byte in memory of a word: its high byte (R65). -/
def highByte (w : Word) : Byte := w.extractLsb' 8 8

/-- The second byte in memory of a word: its low byte (R65). -/
def lowByte (w : Word) : Byte := w.extractLsb' 0 8

/-- The two bytes of a word in memory order (R65). -/
def bytesOfWord (w : Word) : List Byte := [highByte w, lowByte w]

/-! The opcode table as data: a word belongs to a row when it agrees with `pattern` under `mask`. -/

/-- One row of opcode_table.json. -/
structure OpcodeRow where
  mask    : Word
  pattern : Word
  deriving DecidableEq, Repr

/-- The word is one of the row's. -/
def OpcodeRow.holds (r : OpcodeRow) (w : Word) : Bool := w &&& r.mask == r.pattern

/-- The row of an instruction: the mask and match of opcode_table.json. -/
def rowOf : Instr → OpcodeRow
  | .cls => ⟨0xFFFF#16, 0x00E0#16⟩
  | .ret => ⟨0xFFFF#16, 0x00EE#16⟩
  | .jp _ => ⟨0xF000#16, 0x1000#16⟩
  | .call _ => ⟨0xF000#16, 0x2000#16⟩
  | .seImm _ _ => ⟨0xF000#16, 0x3000#16⟩
  | .sneImm _ _ => ⟨0xF000#16, 0x4000#16⟩
  | .seReg _ _ => ⟨0xF00F#16, 0x5000#16⟩
  | .ldImm _ _ => ⟨0xF000#16, 0x6000#16⟩
  | .addImm _ _ => ⟨0xF000#16, 0x7000#16⟩
  | .ldReg _ _ => ⟨0xF00F#16, 0x8000#16⟩
  | .orReg _ _ => ⟨0xF00F#16, 0x8001#16⟩
  | .andReg _ _ => ⟨0xF00F#16, 0x8002#16⟩
  | .xorReg _ _ => ⟨0xF00F#16, 0x8003#16⟩
  | .addReg _ _ => ⟨0xF00F#16, 0x8004#16⟩
  | .subReg _ _ => ⟨0xF00F#16, 0x8005#16⟩
  | .shr _ _ => ⟨0xF00F#16, 0x8006#16⟩
  | .subnReg _ _ => ⟨0xF00F#16, 0x8007#16⟩
  | .shl _ _ => ⟨0xF00F#16, 0x800E#16⟩
  | .sneReg _ _ => ⟨0xF00F#16, 0x9000#16⟩
  | .ldI _ => ⟨0xF000#16, 0xA000#16⟩
  | .jpOffset _ => ⟨0xF000#16, 0xB000#16⟩
  | .rnd _ _ => ⟨0xF000#16, 0xC000#16⟩
  | .drw _ _ _ => ⟨0xF000#16, 0xD000#16⟩
  | .skp _ => ⟨0xF0FF#16, 0xE09E#16⟩
  | .sknp _ => ⟨0xF0FF#16, 0xE0A1#16⟩
  | .ldVxDt _ => ⟨0xF0FF#16, 0xF007#16⟩
  | .ldVxK _ => ⟨0xF0FF#16, 0xF00A#16⟩
  | .ldDtVx _ => ⟨0xF0FF#16, 0xF015#16⟩
  | .ldStVx _ => ⟨0xF0FF#16, 0xF018#16⟩
  | .addI _ => ⟨0xF0FF#16, 0xF01E#16⟩
  | .ldFont _ => ⟨0xF0FF#16, 0xF029#16⟩
  | .ldBcd _ => ⟨0xF0FF#16, 0xF033#16⟩
  | .storeRegs _ => ⟨0xF0FF#16, 0xF055#16⟩
  | .loadRegs _ => ⟨0xF0FF#16, 0xF065#16⟩

/-- The rows whose operation the itype alone selects (R90). -/
def wholeItypeRows : List OpcodeRow :=
  [rowOf (.jp 0), rowOf (.call 0), rowOf (.seImm 0 0), rowOf (.sneImm 0 0), rowOf (.ldImm 0 0), rowOf (.addImm 0 0),
   rowOf (.ldI 0), rowOf (.jpOffset 0), rowOf (.rnd 0 0), rowOf (.drw 0 0 0)]

/-- The rows that also fix `n` (R88, R89). -/
def subNRows : List OpcodeRow :=
  [rowOf (.seReg 0 0), rowOf (.sneReg 0 0), rowOf (.ldReg 0 0), rowOf (.orReg 0 0), rowOf (.andReg 0 0),
   rowOf (.xorReg 0 0), rowOf (.addReg 0 0), rowOf (.subReg 0 0), rowOf (.shr 0 0), rowOf (.subnReg 0 0),
   rowOf (.shl 0 0)]

/-- The rows that also fix `nn`, or the whole word (R87, R88). -/
def subNNRows : List OpcodeRow :=
  [rowOf .cls, rowOf .ret, rowOf (.skp 0), rowOf (.sknp 0), rowOf (.ldVxDt 0), rowOf (.ldVxK 0), rowOf (.ldDtVx 0),
   rowOf (.ldStVx 0), rowOf (.addI 0), rowOf (.ldFont 0), rowOf (.ldBcd 0), rowOf (.storeRegs 0), rowOf (.loadRegs 0)]

/-- The 34 rows of opcode_table.json. -/
def opcodeTable : List OpcodeRow := wholeItypeRows ++ subNRows ++ subNNRows

/-- What the decoder reads from the word whose low `nbits` bits are `w`, numbered as the opcode table numbers them,
with every bit above zero, laid out in memory order (R65). -/
def decodeTableWord (nbits w : Nat) : Option Instr :=
  match decodeBytes .full (bytesOfWord (BitVec.ofNat 16 (w % 2 ^ nbits))) with
  | .ok (i, _) => some i
  | .error _ => none

end Sys2Proof
end

