-- ==== Sys2Proof/Machine/Font.lean ====
section
/-! DEFINITION. The reset contents of memory (spec 20 R67, R68; 10 R41): the 80-byte font, and zero elsewhere. -/

namespace Sys2Proof.Machine

/-- Glyphs 0 to 7, five rows each (R67). -/
def fontLow : List Byte :=
  [0xF0, 0x90, 0x90, 0x90, 0xF0] ++ [0x20, 0x60, 0x20, 0x20, 0x70] ++
  [0xF0, 0x10, 0xF0, 0x80, 0xF0] ++ [0xF0, 0x10, 0xF0, 0x10, 0xF0] ++
  [0x90, 0x90, 0xF0, 0x10, 0x10] ++ [0xF0, 0x80, 0xF0, 0x10, 0xF0] ++
  [0xF0, 0x80, 0xF0, 0x90, 0xF0] ++ [0xF0, 0x10, 0x20, 0x40, 0x40]

/-- Glyphs 8 to F (R67). -/
def fontHigh : List Byte :=
  [0xF0, 0x90, 0xF0, 0x90, 0xF0] ++ [0xF0, 0x90, 0xF0, 0x10, 0xF0] ++
  [0xF0, 0x90, 0xF0, 0x90, 0x90] ++ [0xE0, 0x90, 0xE0, 0x90, 0xE0] ++
  [0xF0, 0x80, 0x80, 0x80, 0xF0] ++ [0xE0, 0x90, 0x90, 0x90, 0xE0] ++
  [0xF0, 0x80, 0xF0, 0x80, 0xF0] ++ [0xF0, 0x80, 0xF0, 0x80, 0x80]

/-- The font, glyph `d` at offset `5 * d` (R67). -/
def fontBytes : List Byte := fontLow ++ fontHigh

/-- The address holds a byte of the font (R67). -/
def inFont (fontBase : Addr) (a : Nat) : Bool := decide (fontBase.toNat ≤ a) && decide (a < fontBase.toNat + 80)

/-- What an address that nothing has written reads as: the reset contents (R41). -/
def resetByte (fontBase : Addr) (a : Nat) : Byte :=
  if inFont fontBase a then fontBytes.getD (a - fontBase.toNat) 0 else 0

end Sys2Proof.Machine
end

