-- ==== Sys2Proof/Machine/Ops.lean ====
section
/-! DEFINITION. The named operations over memory, registers, the stack, the program counter and the reporting of a
condition (spec 20 R61 to R66, 10 R22 to R42, 60 R205 R206). -/

namespace Sys2Proof.Machine

/-- The result type of a step and of a meaning. -/
abbrev Result := Host.Outcome State Fault Refusal

/-! ## Memory -/

/-- The address decoder: reduction modulo 4096 (20 R61). -/
def decodeAddr (a : Nat) : Nat := a % 4096

/-- The listed byte at an address, if there is one. -/
def Memory.lookup : Memory → Nat → Option Byte
  | [], _ => none
  | (k, b) :: rest, a => if k = a then some b else Memory.lookup rest a

/-- List `v` at `a`, keeping the addresses rising. -/
def Memory.put : Memory → Nat → Byte → Memory
  | [], a, v => [(a, v)]
  | (k, b) :: rest, a, v =>
    if a < k then (a, v) :: (k, b) :: rest
    else if a = k then (a, v) :: rest
    else (k, b) :: Memory.put rest a v

/-- List nothing at `a`. -/
def Memory.drop : Memory → Nat → Memory
  | [], _ => []
  | (k, b) :: rest, a => if k = a then rest else (k, b) :: Memory.drop rest a

/-- The byte at a decoded address: the listed one, else the reset contents. -/
def Memory.read (fontBase : Addr) (m : Memory) (a : Nat) : Byte := (m.lookup a).getD (resetByte fontBase a)

/-- Write a decoded address, listing it only when it differs from the reset contents. -/
def Memory.write (fontBase : Addr) (m : Memory) (a : Nat) (v : Byte) : Memory :=
  if v = resetByte fontBase a then m.drop a else m.put a v

/-- The canonical form: addresses strictly rising and below 4096, no entry equal to the reset contents (log 15). -/
def Memory.wf (fontBase : Addr) (m : Memory) : Bool :=
  decide (m.Pairwise fun p q => p.1 < q.1) &&
    m.all fun c => decide (c.1 < 4096) && !(c.2 == resetByte fontBase c.1)

/-- Add an address to a rising list of addresses. -/
def addAddress : List Nat → Nat → List Nat
  | [], a => [a]
  | k :: rest, a => if a < k then a :: k :: rest else if a = k then k :: rest else k :: addAddress rest a

/-- `RESET_POLICY = unwritten_faults`: the state has `written` bits (10 R42). -/
def State.tracksWrites (s : State) : Bool := s.params.resetPolicy == .unwrittenFaults

/-- `MemRead(a, 1)` (00 R15, 20 R61). -/
def State.memRead (s : State) (a : Nat) : Byte := Memory.read s.params.fontBase s.mem (decodeAddr a)

/-- `MemWrite(a, 1, v)`, which also sets the byte's `written` bit (00 R15, 20 R61, 10 R42). -/
def State.memWrite (s : State) (a : Nat) (v : Byte) : State :=
  { s with
    mem := Memory.write s.params.fontBase s.mem (decodeAddr a) v
    written :=
      if s.tracksWrites then { s.written with mem := addAddress s.written.mem (decodeAddr a) } else s.written }

/-- The byte holds a value: always under `RESET_POLICY = zero`; else the font and what was written (10 R42). -/
def State.memWritten (s : State) (a : Nat) : Bool :=
  !s.tracksWrites || inFont s.params.fontBase (decodeAddr a) || s.written.mem.contains (decodeAddr a)

/-- Write bytes at consecutive addresses, in increasing order, each through the decoder (20 R63). -/
def State.memWriteList (s : State) (a : Nat) : List Byte → State
  | [] => s
  | b :: rest => (s.memWrite a b).memWriteList (a + 1) rest

/-- Read `n` bytes at consecutive addresses, each through the decoder (20 R63). -/
def State.memReadList (s : State) (a : Nat) : Nat → List Byte
  | 0 => []
  | n + 1 => s.memRead a :: s.memReadList (a + 1) n

/-- All of `n` consecutive bytes hold a value (60 R204, R205). -/
def State.memWrittenRun (s : State) (a : Nat) : Nat → Bool
  | 0 => true
  | n + 1 => s.memWritten a && s.memWrittenRun (a + 1) n

/-! ## Registers -/

/-- `V[r]` (00 R13). -/
def State.readReg (s : State) (r : RegIdx) : Byte := s.v[r.val]

/-- `V[r] <- x`, which also sets the register's `written` bit (00 R13, 10 R42). -/
def State.writeReg (s : State) (r : RegIdx) (x : Byte) : State :=
  { s with
    v := s.v.set r.val x
    written :=
      if s.tracksWrites then { s.written with regs := s.written.regs ||| (1#16 <<< r.val) } else s.written }

/-- `V[r]` holds a value (10 R42). -/
def State.regWritten (s : State) (r : RegIdx) : Bool := !s.tracksWrites || s.written.regs.getLsbD r.val

/-- `V[0] <- b0`, `V[1] <- b1`, ... from register `k` on, in increasing order (42 R155). -/
def State.writeRegList (s : State) (k : Nat) : List Byte → State
  | [] => s
  | b :: rest => (s.writeReg (Fin.ofNat 16 k) b).writeRegList (k + 1) rest

/-- `I <- x` (00 R13, 10 R42). -/
def State.writeIndex (s : State) (x : Word) : State :=
  { s with i := x, written := if s.tracksWrites then { s.written with index := true } else s.written }

/-- `I` holds a value (10 R42). -/
def State.indexWritten (s : State) : Bool := !s.tracksWrites || s.written.index

/-- `DT <- x` (00 R13, 10 R42). -/
def State.writeDelay (s : State) (x : Byte) : State :=
  { s with dt := x, written := if s.tracksWrites then { s.written with delay := true } else s.written }

/-- `DT` holds a value (10 R42). -/
def State.delayWritten (s : State) : Bool := !s.tracksWrites || s.written.delay

/-- `ST <- x` (00 R13, 10 R42). -/
def State.writeSound (s : State) (x : Byte) : State :=
  { s with st := x, written := if s.tracksWrites then { s.written with sound := true } else s.written }

/-- `ST` holds a value (10 R42). -/
def State.soundWritten (s : State) : Bool := !s.tracksWrites || s.written.sound

/-! ## Program counter and stack -/

/-- An address reduced modulo 4096, as the 16 bits `PC` holds (10 R27). -/
def pcValue (a : Nat) : Word := BitVec.ofNat 16 (a % 4096)

/-- `PC <- a mod 4096` (10 R27). -/
def State.setPc (s : State) (a : Nat) : State := { s with pc := pcValue a }

/-- `skip()`: pass over the next two bytes (40 R100). -/
def State.skip (s : State) : State := s.setPc (s.pc.toNat + 2)

/-- Skip when a condition holds. -/
def State.skipIf (s : State) (c : Bool) : State := if c then s.skip else s

/-- `push(v)` (00 R13). -/
def State.push (s : State) (a : Word) : State := { s with stack := s.stack ++ [a] }

/-- The stack of finite capacity is full (40 R103; log 11). -/
def State.stackFull (s : State) : Bool :=
  match s.params.stackCap with
  | none => false
  | some cap => decide (cap ≤ s.stack.length)

/-! ## Conditions -/

/-- `raise C(info)`: report the condition, then do what `ON_CONDITION` says (60 R205, R206). Nothing else changes:
`PC` was advanced by the fetch. -/
def State.raise (s : State) (c : Condition) (info : Word) : State :=
  { s with
    status := ⟨.reported c, info⟩
    cpu := match s.params.onCondition with
      | .halt => .halted
      | .proceed => s.cpu }

/-- A tick in `Halted` reports `Halted` and changes nothing else (30 R85, 60 R206). -/
def State.reportHalted (s : State) : State := { s with status := ⟨.halted, s.status.word⟩ }

/-- `Status <- Ok`, `cond_word` unchanged (60 R200). -/
def State.reportOk (s : State) : State := { s with status := ⟨.ok, s.status.word⟩ }

/-- `Status <- Waiting`, `cond_word` unchanged (60 R200). -/
def State.reportWaiting (s : State) : State := { s with status := ⟨.waiting, s.status.word⟩ }

/-- `rst`: every piece of state takes its reset value (70 R230, R231). `Key` follows the `keys` input (10 R41), the
parameters are the build's, and what the outside will still do is not the core's state. It is the only way out of
`Halted` (60 R206; log 16). -/
def State.applyReset (s : State) : State :=
  { State.resetWith s.params with keys := s.keys, inputs := s.inputs }

/-! ## Draws -/

/-- The 8-bit value on the `rand` input at this step (00 R15, 41 R135; log 3). -/
def State.randSample (s : State) : Byte :=
  match s.inputs.rand with
  | b :: _ => b
  | [] => Config.freeRand s.inputs.drawn

/-- The `rand` value has been taken. -/
def State.afterRand (s : State) : State :=
  { s with inputs := { s.inputs with rand := s.inputs.rand.tail, drawn := s.inputs.drawn + 1 } }

/-- The draw of `choose_key` at this step (44 R191; log 4). -/
def State.keyDraw (s : State) : Nat :=
  match s.inputs.keyPicks with
  | p :: _ => p
  | [] => Config.freeKeyPick s.inputs.drawn

/-- The draw of `choose_key` has been taken. -/
def State.afterKeyDraw (s : State) : State :=
  { s with inputs := { s.inputs with keyPicks := s.inputs.keyPicks.tail, drawn := s.inputs.drawn + 1 } }

/-! ## Output ports -/

/-- The code of a condition on the `status` port (60 R200). -/
def Condition.code : Condition → BitVec 3
  | .unimplemented => 1
  | .stackUnderflow => 2
  | .stackOverflow => 3
  | .unwrittenRead => 4

/-- The 3-bit code on the `status` port (60 R200). -/
def StatusCode.bits : StatusCode → BitVec 3
  | .ok => 0
  | .reported c => c.code
  | .waiting => 5
  | .halted => 6

/-- The `status` output (00 R11, 60 R200). -/
def State.statusPort (s : State) : BitVec 3 := s.status.code.bits

/-- The `cond_word` output (00 R11, 60 R200). -/
def State.condWordPort (s : State) : Word := s.status.word

/-- The `suspended` output: 1 exactly when `Cpu` is `Waiting(x)` (00 R11, 10 R36). -/
def State.suspendedPort (s : State) : Bool :=
  match s.cpu with
  | .ready => false
  | .waiting _ => true
  | .halted => false

end Sys2Proof.Machine
end

