-- ==== Sys2Proof/Machine/Flags.lean ====
section
/-! DEFINITION. The flag computations (spec 10 R31) and the order of the result and the flag (10 R32, 41 R132). -/

namespace Sys2Proof.Machine

/-- A truth value as the byte a register receives (00 R14). -/
def flagByte (b : Bool) : Byte := if b then 1 else 0

/-- Carry out of bit 7 of `a + b` (41 R126). -/
def carryFlag (a b : Byte) : Byte := flagByte (decide (a.toNat + b.toNat > 255))

/-- No borrow in `a - b`: 1 when `a >= b` (41 R127, R129). -/
def notBorrowFlag (a b : Byte) : Byte := flagByte (decide (b.toNat ≤ a.toNat))

/-- The bit a right shift moves out: bit 0 (41 R128). -/
def lowBitFlag (a : Byte) : Byte := a &&& 0x01#8

/-- The bit a left shift moves out: bit 7 (41 R130). -/
def highBitFlag (a : Byte) : Byte := a >>> 7

/-- Write `V[x]` first and `VF` last (10 R32, 41 R132). -/
def State.writeWithFlag (s : State) (x : RegIdx) (result flag : Byte) : State :=
  (s.writeReg x result).writeReg vf flag

/-- Write `V[x]`, then set `VF` to 0 when `LOGIC_VF_RESET` (41 R123 to R125). -/
def State.writeLogic (s : State) (x : RegIdx) (result : Byte) : State :=
  if s.params.logicVfReset then s.writeWithFlag x result 0 else s.writeReg x result

end Sys2Proof.Machine
end

