-- ==== Sys2Proof/Machine/Operands.lean ====
section
/-! DEFINITION. Where an instruction's operands come from (spec 42 R156, 41 R128 R130, 40 R108, 44 R185 R191), and what
it reads, for the check of 60 R204. -/

namespace Sys2Proof.Machine

/-- The effective address of the `k`-th byte, before the decoder: `I + k` (42 R156). -/
def State.dataAddr (s : State) (k : Nat) : Nat := s.i.toNat + k

/-- The register 8XY6 and 8XYE shift (41 R128, R130). -/
def State.shiftReg (s : State) (x y : RegIdx) : RegIdx :=
  match s.params.shiftSrc with
  | .vy => y
  | .vx => x

/-- The register BNNN adds: `V0`, or `V[x]` with `x = w[11:8]` (40 R108). -/
def State.jumpReg (s : State) (nnn : Addr) : RegIdx :=
  match s.params.jumpOffsetReg with
  | .v0 => 0
  | .vx => (nnn.extractLsb' 8 4).toFin

/-- The key an 8-bit value selects: its low nibble (44 R185). -/
def keyIndex (b : Byte) : RegIdx := Fin.ofNat 16 b.toNat

/-- `Key[k] = 1` (44 R197). -/
def State.keyPressed (s : State) (k : RegIdx) : Bool := s.keys.getLsbD k.val

/-- The keys that end a key wait at its first step: under `edge`, none (44 R191). -/
def State.keysAtStart (s : State) : List RegIdx :=
  match s.params.keyWait with
  | .level => (List.finRange 16).filter fun k => s.keyPressed k
  | .edge => []

/-- The keys that end a key wait at a poll: the pressed ones, or under `edge` the newly pressed ones (44 R192). -/
def State.keysAtPoll (s : State) : List RegIdx :=
  match s.params.keyWait with
  | .level => (List.finRange 16).filter fun k => s.keyPressed k
  | .edge => (List.finRange 16).filter fun k => s.keyPressed k && !s.keyPrev.getLsbD k.val

/-- `choose_key` of the set `k :: rest`: an element of it, by a draw (44 R191). -/
def chooseKey (k : RegIdx) (rest : List RegIdx) (draw : Nat) : RegIdx :=
  match rest with
  | [] => k
  | r :: rs => (k :: r :: rs).getD (draw % (rs.length + 2)) k

/-- The address of the glyph of an 8-bit value's low nibble: `FONT_BASE + 5 * (v & 0x0F)` (42 R152). -/
def State.glyphAddr (s : State) (v : Byte) : Word :=
  BitVec.ofNat 16 (s.params.fontBase.toNat + 5 * (v &&& 0x0F#8).toNat)

/-- The decimal digits of a byte, hundreds first (42 R153). -/
def bcdDigits (v : Byte) : List Byte :=
  [BitVec.ofNat 8 (v.toNat / 100), BitVec.ofNat 8 (v.toNat / 10 % 10), BitVec.ofNat 8 (v.toNat % 10)]

/-- `V[0]`..`V[x]`, in increasing order (42 R154). -/
def State.regsUpTo (s : State) (x : RegIdx) : List Byte :=
  (List.range (x.val + 1)).map fun k => s.readReg (Fin.ofNat 16 k)

/-- `I` after FX55 and FX65: `I + x + 1` modulo 65536 when `MEM_INCR_I`, else not written (42 R154, R155). -/
def State.stepIndex (s : State) (x : RegIdx) : State :=
  if s.params.memIncrI then s.writeIndex (BitVec.ofNat 16 (s.i.toNat + x.val + 1)) else s

/-- Registers `V[0]`..`V[x]` all hold a value (60 R204). -/
def State.regsWrittenUpTo (s : State) (x : RegIdx) : Bool :=
  (List.range (x.val + 1)).all fun k => s.regWritten (Fin.ofNat 16 k)

/-- Everything the instruction reads holds a value: the tables of 10 R24, R25 and R35 and of 20 R63 (60 R204). Under
`RESET_POLICY = zero` this is always so (log 6). -/
def State.readable (s : State) : Instr → Bool
  | .cls => true
  | .ret => true
  | .jp _ => true
  | .call _ => true
  | .seImm x _ => s.regWritten x
  | .sneImm x _ => s.regWritten x
  | .seReg x y => s.regWritten x && s.regWritten y
  | .ldImm _ _ => true
  | .addImm x _ => s.regWritten x
  | .ldReg _ y => s.regWritten y
  | .orReg x y => s.regWritten x && s.regWritten y
  | .andReg x y => s.regWritten x && s.regWritten y
  | .xorReg x y => s.regWritten x && s.regWritten y
  | .addReg x y => s.regWritten x && s.regWritten y
  | .subReg x y => s.regWritten x && s.regWritten y
  | .shr x y => s.regWritten (s.shiftReg x y)
  | .subnReg x y => s.regWritten x && s.regWritten y
  | .shl x y => s.regWritten (s.shiftReg x y)
  | .sneReg x y => s.regWritten x && s.regWritten y
  | .ldI _ => true
  | .jpOffset nnn => s.regWritten (s.jumpReg nnn)
  | .rnd _ _ => true
  | .drw x y n => s.regWritten x && s.regWritten y && s.indexWritten && s.memWrittenRun (s.dataAddr 0) n.val
  | .skp x => s.regWritten x
  | .sknp x => s.regWritten x
  | .ldVxDt _ => s.delayWritten
  | .ldVxK _ => true
  | .ldDtVx x => s.regWritten x
  | .ldStVx x => s.regWritten x
  | .addI x => s.indexWritten && s.regWritten x
  | .ldFont x => s.regWritten x
  | .ldBcd x => s.regWritten x && s.indexWritten
  | .storeRegs x => s.regsWrittenUpTo x && s.indexWritten
  | .loadRegs x => s.indexWritten && s.memWrittenRun (s.dataAddr 0) (x.val + 1)

/-- Go to `t` when everything instruction `i` reads holds a value; else report `UnwrittenRead` with its word, before
anything is written (60 R204, R205; log 17). -/
def State.whenReadable (s : State) (i : Instr) (t : State) : Result :=
  .next (if s.readable i then t else s.raise .unwrittenRead (encode i))

end Sys2Proof.Machine
end

