-- ==== Sys2Proof/Machine/Alu.lean ====
section
/-! DEFINITION. The meanings of the register and ALU family (spec 41). Every operand is read before anything is
written (R132); 8-bit results wrap (R131). -/

namespace Sys2Proof.Machine

/-- 6XNN (R120): `V[x] <- nn`. -/
def execLdImm (x : RegIdx) (nn : Byte) (s : State) : Result := .next (s.writeReg x nn)

/-- 7XNN (R121): `V[x] <- (V[x] + nn) mod 256`, no flag. -/
def execAddImm (x : RegIdx) (nn : Byte) (s : State) : Result :=
  s.whenReadable (.addImm x nn) (s.writeReg x (s.readReg x + nn))

/-- 8XY0 (R122): `V[x] <- V[y]`. -/
def execLdReg (x y : RegIdx) (s : State) : Result :=
  s.whenReadable (.ldReg x y) (s.writeReg x (s.readReg y))

/-- 8XY1 (R123): bitwise OR. -/
def execOrReg (x y : RegIdx) (s : State) : Result :=
  s.whenReadable (.orReg x y) (s.writeLogic x (s.readReg x ||| s.readReg y))

/-- 8XY2 (R124): bitwise AND. -/
def execAndReg (x y : RegIdx) (s : State) : Result :=
  s.whenReadable (.andReg x y) (s.writeLogic x (s.readReg x &&& s.readReg y))

/-- 8XY3 (R125): bitwise XOR. -/
def execXorReg (x y : RegIdx) (s : State) : Result :=
  s.whenReadable (.xorReg x y) (s.writeLogic x (s.readReg x ^^^ s.readReg y))

/-- 8XY4 (R126): add, the carry to `VF`. -/
def execAddReg (x y : RegIdx) (s : State) : Result :=
  s.whenReadable (.addReg x y)
    (s.writeWithFlag x (s.readReg x + s.readReg y) (carryFlag (s.readReg x) (s.readReg y)))

/-- 8XY5 (R127): `V[x] - V[y]`, not-borrow to `VF`. -/
def execSubReg (x y : RegIdx) (s : State) : Result :=
  s.whenReadable (.subReg x y)
    (s.writeWithFlag x (s.readReg x - s.readReg y) (notBorrowFlag (s.readReg x) (s.readReg y)))

/-- 8XY6 (R128): shift the source operand right by one, the bit moved out to `VF`. -/
def execShr (x y : RegIdx) (s : State) : Result :=
  s.whenReadable (.shr x y)
    (s.writeWithFlag x (s.readReg (s.shiftReg x y) >>> 1) (lowBitFlag (s.readReg (s.shiftReg x y))))

/-- 8XY7 (R129): `V[y] - V[x]`, not-borrow to `VF`. -/
def execSubnReg (x y : RegIdx) (s : State) : Result :=
  s.whenReadable (.subnReg x y)
    (s.writeWithFlag x (s.readReg y - s.readReg x) (notBorrowFlag (s.readReg y) (s.readReg x)))

/-- 8XYE (R130): shift the source operand left by one, the bit moved out to `VF`. -/
def execShl (x y : RegIdx) (s : State) : Result :=
  s.whenReadable (.shl x y)
    (s.writeWithFlag x (s.readReg (s.shiftReg x y) <<< 1) (highBitFlag (s.readReg (s.shiftReg x y))))

/-- CXNN (R135): `V[x] <- rand & nn`, one draw taken from the `rand` input. -/
def execRnd (x : RegIdx) (nn : Byte) (s : State) : Result :=
  .next (s.afterRand.writeReg x (s.randSample &&& nn))

end Sys2Proof.Machine
end

