-- ==== Sys2Proof/Machine/Display.lean ====
section
/-! DEFINITION. The framebuffer controller and the meanings of the display family (spec 43). -/

namespace Sys2Proof.Machine

/-- `Fb[r][c]` (00 R13). -/
def Framebuffer.pixel (fb : Framebuffer) (r : Fin 32) (c : Fin 64) : Bool := fb[r.val][c.val]

/-- `Fb[r][c] <- Fb[r][c] ^ 1` (R171). -/
def Framebuffer.flip (fb : Framebuffer) (r : Fin 32) (c : Fin 64) : Framebuffer :=
  fb.set r.val (fb[r.val].set c.val (!fb.pixel r c))

/-- The row a sprite's row `r` lands on: `(y0 + r) mod 32` (R171). -/
def spriteRow (y0 : Byte) (r : Nat) : Fin 32 := Fin.ofNat 32 (y0.toNat + r)

/-- The column a sprite's column `c` lands on: `(x0 + c) mod 64` (R171). -/
def spriteCol (x0 : Byte) (c : Nat) : Fin 64 := Fin.ofNat 64 (x0.toNat + c)

/-- One pixel of a sprite: a 1 bit flips its pixel and collides when the pixel was on; a 0 bit does nothing (R171). The
pair is the buffer and the collision so far. -/
def drawPixel (x0 y0 : Byte) (r : Nat) (bits : Byte) (acc : Framebuffer × Bool) (c : Nat) : Framebuffer × Bool :=
  if bits.getLsbD (7 - c) then
    (acc.1.flip (spriteRow y0 r) (spriteCol x0 c), acc.2 || acc.1.pixel (spriteRow y0 r) (spriteCol x0 c))
  else acc

/-- The eight columns of one row of a sprite, most significant bit first (R171). -/
def drawRow (x0 y0 : Byte) (r : Nat) (bits : Byte) (acc : Framebuffer × Bool) : Framebuffer × Bool :=
  (List.range 8).foldl (drawPixel x0 y0 r bits) acc

/-- The rows of a sprite from row `r` on (R171). -/
def drawRows (x0 y0 : Byte) : Nat → List Byte → Framebuffer × Bool → Framebuffer × Bool
  | _, [], acc => acc
  | r, bits :: rest, acc => drawRows x0 y0 (r + 1) rest (drawRow x0 y0 r bits acc)

/-- `draw_sprite(x0, y0, rows)`: the new buffer and the collision flag (R171). -/
def drawSprite (fb : Framebuffer) (x0 y0 : Byte) (rows : List Byte) : Framebuffer × Bool :=
  drawRows x0 y0 0 rows (fb, false)

/-- `clear()` (R170). -/
def State.clearDisplay (s : State) : State := { s with fb := Framebuffer.blank }

/-- The sprite of DXYN: `n` bytes at `I` (R173). -/
def State.spriteBytes (s : State) (n : Nat) : List Byte := s.memReadList (s.dataAddr 0) n

/-- 00E0 (R172). -/
def execCls (s : State) : Result := .next s.clearDisplay

/-- DXYN (R173): XOR the sprite onto the buffer, the collision flag to `VF`. -/
def execDrw (x y : RegIdx) (n : Fin 16) (s : State) : Result :=
  s.whenReadable (.drw x y n)
    ({ s with fb := (drawSprite s.fb (s.readReg x) (s.readReg y) (s.spriteBytes n.val)).1 }.writeReg vf
      (flagByte (drawSprite s.fb (s.readReg x) (s.readReg y) (s.spriteBytes n.val)).2))

/-- The render adapter's read port: `fb_pix = Fb[fb_row][fb_col]` (R174; log 18). -/
def State.fbPix (s : State) (row : Fin 32) (col : Fin 64) : Bool := s.fb.pixel row col

end Sys2Proof.Machine
end

