-- ==== Sys2Proof/Machine/Flow.lean ====
section
/-! DEFINITION. The meanings of the control transfer family (spec 40). `PC` is already the address of the next
instruction (00 R16, 30 R84). -/

namespace Sys2Proof.Machine

/-- 00EE (R101): `PC <- pop() mod 4096`, or `StackUnderflow(w)` when the stack is empty. -/
def execRet (s : State) : Result :=
  match s.stack.getLast? with
  | none => .next (s.raise .stackUnderflow (encode .ret))
  | some a => .next ({ s with stack := s.stack.dropLast }.setPc a.toNat)

/-- 1NNN (R102): `PC <- zext_16(nnn)`. -/
def execJp (nnn : Addr) (s : State) : Result := .next (s.setPc nnn.toNat)

/-- 2NNN (R103): push the return address and jump, or `StackOverflow(w)` when a stack of finite capacity is full. -/
def execCall (nnn : Addr) (s : State) : Result :=
  if s.stackFull then .next (s.raise .stackOverflow (encode (.call nnn)))
  else .next ((s.push s.pc).setPc nnn.toNat)

/-- 3XNN (R104): skip if `V[x] = nn`. -/
def execSeImm (x : RegIdx) (nn : Byte) (s : State) : Result :=
  s.whenReadable (.seImm x nn) (s.skipIf (s.readReg x == nn))

/-- 4XNN (R105): skip if `V[x] != nn`. -/
def execSneImm (x : RegIdx) (nn : Byte) (s : State) : Result :=
  s.whenReadable (.sneImm x nn) (s.skipIf (s.readReg x != nn))

/-- 5XY0 (R106): skip if `V[x] = V[y]`. -/
def execSeReg (x y : RegIdx) (s : State) : Result :=
  s.whenReadable (.seReg x y) (s.skipIf (s.readReg x == s.readReg y))

/-- 9XY0 (R107): skip if `V[x] != V[y]`. -/
def execSneReg (x y : RegIdx) (s : State) : Result :=
  s.whenReadable (.sneReg x y) (s.skipIf (s.readReg x != s.readReg y))

/-- BNNN (R108): `PC <- (nnn + V0) mod 4096`, or `V[x]` in place of `V0` under `JUMP_OFFSET_REG = vx`. -/
def execJpOffset (nnn : Addr) (s : State) : Result :=
  s.whenReadable (.jpOffset nnn) (s.setPc (nnn.toNat + (s.readReg (s.jumpReg nnn)).toNat))

end Sys2Proof.Machine
end

