-- ==== Sys2Proof/Machine/IndexMemory.lean ====
section
/-! DEFINITION. The meanings of the index register and memory family (spec 42). -/

namespace Sys2Proof.Machine

/-- ANNN (R150): `I <- zext_16(nnn)`. -/
def execLdI (nnn : Addr) (s : State) : Result := .next (s.writeIndex (nnn.setWidth 16))

/-- FX1E (R151): `I <- (I + V[x]) mod 65536`, no flag. -/
def execAddI (x : RegIdx) (s : State) : Result :=
  s.whenReadable (.addI x) (s.writeIndex (s.i + (s.readReg x).setWidth 16))

/-- FX29 (R152): `I` at the glyph of the low nibble of `V[x]`. -/
def execLdFont (x : RegIdx) (s : State) : Result :=
  s.whenReadable (.ldFont x) (s.writeIndex (s.glyphAddr (s.readReg x)))

/-- FX33 (R153): the decimal digits of `V[x]` at `I`, `I + 1`, `I + 2`. -/
def execLdBcd (x : RegIdx) (s : State) : Result :=
  s.whenReadable (.ldBcd x) (s.memWriteList (s.dataAddr 0) (bcdDigits (s.readReg x)))

/-- FX55 (R154): `V[0]`..`V[x]` at `I`..`I + x`; then `I` as `MEM_INCR_I` says. -/
def execStoreRegs (x : RegIdx) (s : State) : Result :=
  s.whenReadable (.storeRegs x) ((s.memWriteList (s.dataAddr 0) (s.regsUpTo x)).stepIndex x)

/-- FX65 (R155): `V[0]`..`V[x]` from `I`..`I + x`; then `I` as `MEM_INCR_I` says. -/
def execLoadRegs (x : RegIdx) (s : State) : Result :=
  s.whenReadable (.loadRegs x) ((s.writeRegList 0 (s.memReadList (s.dataAddr 0) (x.val + 1))).stepIndex x)

end Sys2Proof.Machine
end

