-- ==== Sys2Proof/Machine/TimersKeys.lean ====
section
/-! DEFINITION. The timer tick, the key wait, and the meanings of the timer and key family (spec 44). -/

namespace Sys2Proof.Machine

/-- One count down, clamped at 0 (R195). -/
def countDown (b : Byte) : Byte := if b = 0 then 0 else b - 1

/-- `timer_tick()` (R195, R196): count `DT` and `ST` down, `beep` when `ST` was positive. An unwritten timer stays
unwritten and emits no beep (10 R42). Nothing else changes, in every run state. -/
def State.timerTick (s : State) : State :=
  { s with
    dt := if s.delayWritten then countDown s.dt else s.dt
    st := if s.soundWritten then countDown s.st else s.st
    beep := s.soundWritten && !(s.st == 0) }

/-- The key wait ends: `V[x] <- choose_key(k :: rest)`, `Cpu` is `Ready`, `Status` is `Ok` (R191, R192). -/
def State.takeKey (s : State) (x : RegIdx) (k : RegIdx) (rest : List RegIdx) : State :=
  ({ s with cpu := .ready }.reportOk.afterKeyDraw).writeReg x
    (BitVec.ofNat 8 (chooseKey k rest s.keyDraw).val)

/-- The key wait goes on: under `edge`, `KeyPrev <- keys`; `Status` is `Waiting` (R191, R192). -/
def State.keepWaiting (s : State) (x : RegIdx) : State :=
  { s with
    cpu := .waiting x
    keyPrev := match s.params.keyWait with
      | .level => s.keyPrev
      | .edge => s.keys }.reportWaiting

/-- `key_wait_poll(x)` (R192). -/
def State.keyWaitPoll (s : State) (x : RegIdx) : State :=
  match s.keysAtPoll with
  | k :: rest => s.takeKey x k rest
  | [] => s.keepWaiting x

/-- EX9E (R186): skip if key `V[x] & 0x0F` is pressed. -/
def execSkp (x : RegIdx) (s : State) : Result :=
  s.whenReadable (.skp x) (s.skipIf (s.keyPressed (keyIndex (s.readReg x))))

/-- EXA1 (R187): skip if key `V[x] & 0x0F` is not pressed. -/
def execSknp (x : RegIdx) (s : State) : Result :=
  s.whenReadable (.sknp x) (s.skipIf (!s.keyPressed (keyIndex (s.readReg x))))

/-- FX07 (R188): `V[x] <- DT`. -/
def execLdVxDt (x : RegIdx) (s : State) : Result :=
  s.whenReadable (.ldVxDt x) (s.writeReg x s.dt)

/-- FX0A (R191): store a pressed key at once under `level`, else wait for one. -/
def execLdVxK (x : RegIdx) (s : State) : Result :=
  match s.keysAtStart with
  | k :: rest => .next (s.takeKey x k rest)
  | [] => .next (s.keepWaiting x)

/-- FX15 (R189): `DT <- V[x]`. -/
def execLdDtVx (x : RegIdx) (s : State) : Result :=
  s.whenReadable (.ldDtVx x) (s.writeDelay (s.readReg x))

/-- FX18 (R190): `ST <- V[x]`. -/
def execLdStVx (x : RegIdx) (s : State) : Result :=
  s.whenReadable (.ldStVx x) (s.writeSound (s.readReg x))

end Sys2Proof.Machine
end

