-- ==== Sys2Proof/Machine/Tick.lean ====
section
/-! DEFINITION. The instruction-loop tick (spec 30 R83 to R85), the loader (70 R232) and the moves of the agents
(70 R240). -/

namespace Sys2Proof.Machine

/-- The word at `PC`, the byte at `PC` high (30 R83). -/
def State.fetchWord (s : State) : Word := wordOfBytes (s.memRead s.pc.toNat) (s.memRead (s.pc.toNat + 1))

/-- Both bytes that the fetch reads hold a value (60 R204). -/
def State.fetchReadable (s : State) : Bool := s.memWritten s.pc.toNat && s.memWritten (s.pc.toNat + 1)

/-- The state after the fetch: `PC` advanced by 2 modulo 4096 (30 R84), and `Status` as it will stand unless the
instruction reports something else (30 R85; log 8). -/
def State.afterFetch (s : State) : State := (s.setPc (s.pc.toNat + 2)).reportOk

/-- The first `instr_tick` ends the loader's time (70 R232). -/
def State.closeLoad (s : State) : State := { s with loadOpen := false }

/-- Fetch, decode and execute, in `Ready` (30 R85), with the priority of conditions of 60 R207. -/
def fetchDecodeExecute (s : State) : Result :=
  if s.fetchReadable then
    match decode s.params.opset s.fetchWord with
    | .ok i => exec i s.afterFetch
    | .error _ => .next (s.afterFetch.raise .unimplemented s.fetchWord)
  else .next (s.afterFetch.raise .unwrittenRead s.pc)

/-- `instr_tick()` (30 R85). -/
def instrTick (s : State) : Result :=
  match s.cpu with
  | .halted => .next s.closeLoad.reportHalted
  | .waiting x => .next (s.closeLoad.keyWaitPoll x)
  | .ready => fetchDecodeExecute s.closeLoad

/-- One write through the loader's port, from 0x200 on and before the first `instr_tick` (00 R17, 70 R232; log 9). -/
def loadByte (addr : Addr) (data : Byte) (s : State) : Result :=
  if !s.loadOpen then .refused .loadAfterStart
  else if addr.toNat < 0x200 then .refused .loadOutsideProgramArea
  else .next (s.memWrite addr.toNat data)

/-- The loader deposits an image: byte `k` at `0x200 + k` (70 R232; log 9). -/
def loadImage (image : List Byte) (s : State) : Result :=
  if !s.loadOpen then .refused .loadAfterStart
  else if imageFits image then .next (s.memWriteList 0x200 image)
  else .refused .imageTooLong

/-- One atomic step of an agent (70 R240). -/
def agentMove (m : HostMove) (s : State) : Result :=
  match m with
  | .instrTick => instrTick s
  | .timerTick => .next s.timerTick
  | .setKeys keys => .next { s with keys := keys }
  | .fbRead _ _ => .next s
  | .loadByte addr data => loadByte addr data s
  | .load image => loadImage image s
  | .rst => .next s.applyReset

/-- The state with `rest` as its queue of moves: a step takes the first move off before anything else (log 2). -/
def State.withMoves (s : State) (rest : List HostMove) : State :=
  { s with inputs := { s.inputs with moves := rest } }

/-- Take the next move of the queue; with none queued, the instruction loop ticks (log 2). -/
def nextMove (s : State) : Result :=
  match s.inputs.moves with
  | [] => instrTick s
  | m :: rest => agentMove m (s.withMoves rest)

/-- The queue with an `instr_tick` as its next move. -/
def tickNext : List HostMove → List HostMove
  | [] => []
  | .instrTick :: rest => .instrTick :: rest
  | m :: rest => .instrTick :: m :: rest

/-- The state in which the next step fetches the word `w` at `PC`: its two bytes stored there, the core ready, and an
`instr_tick` next (log 13). -/
def State.placeWord (s : State) (w : Word) : State :=
  { ((s.memWrite s.pc.toNat (highByte w)).memWrite (s.pc.toNat + 1) (lowByte w)).withMoves
      (tickNext s.inputs.moves) with
    cpu := .ready }

end Sys2Proof.Machine
end

