-- ==== Sys2Proof/Machine/Step.lean ====
section
/-! DEFINITION. One step of the machine: one atomic step of one agent (spec 70 R240). -/

namespace Sys2Proof.Machine

/-- One step. Parameters outside the ranges of 00 R9 stop it (log 12). -/
def step (s : State) : Host.Outcome State Fault Refusal :=
  if s.params.wf then nextMove s else .fault .illegalParameters

/-- `s` with the word whose low `nbits` bits are `w`, the bits above zero, stored where the next step fetches
(log 13). -/
def State.withFetchWord (s : State) (nbits w : Nat) : State := s.placeWord (BitVec.ofNat 16 (w % 2 ^ nbits))

end Sys2Proof.Machine
end

