-- ==== Sys2Proof/Safety.lean ====
section
/-! DEFINITION. The terms of the claims: what a run reports, where it ends (spec 70 R246), the invariant of the machine,
and what a step leaves unchanged. -/

namespace Sys2Proof.Machine

/-! ## Runs -/

/-- The last `instr_tick` reported a condition (60 R200, codes 1 to 4). -/
def State.conditionReported (s : State) : Bool :=
  match s.status.code with
  | .ok => false
  | .reported _ => true
  | .waiting => false
  | .halted => false

/-- The move is one of the four kinds of atomic step of a run (70 R240): a tick of either loop, a change of the keys, a
read of a pixel. A write of the loader comes before a run, and `rst` begins another. -/
def HostMove.ofRun : HostMove → Bool
  | .instrTick => true
  | .timerTick => true
  | .setKeys _ => true
  | .fbRead _ _ => true
  | .loadByte _ _ => false
  | .load _ => false
  | .rst => false

/-- A state of a run in which no condition is reported: the load is done and every queued move is one of a run (70
R240, R246; log 19). -/
def State.inRun (s : State) : Bool := s.inputs.moves.all HostMove.ofRun && !s.conditionReported

/-- The state after `k` steps of a run, no condition having been reported on the way. -/
def runClean : Nat → State → Option State
  | 0, s => if s.inRun then some s else none
  | k + 1, s =>
    if s.inRun then
      match step s with
      | .next t => runClean k t
      | .fault _ => none
      | .refused _ => none
    else none

/-- `Cpu = Ready`, and the word at `PC` is `0x1000 | PC` (70 R246). DESIGN CHOICE (log 19): under `RESET_POLICY =
unwritten_faults` two unwritten bytes, or one, make no word at `PC`, since the next fetch reports them. R246 does not
say. -/
def State.endShape (s : State) : Bool :=
  s.cpu == .ready && s.fetchReadable && s.fetchWord == (0x1000#16 ||| s.pc)

/-- The run from `s` reaches its end after `k` steps, at `t`: the first state of the end shape, no condition having
been reported (70 R246; log 19). -/
def EndsAfter (k : Nat) (s t : State) : Prop :=
  runClean k s = some t ∧ t.endShape = true ∧ ∀ j < k, ∀ u, runClean j s = some u → u.endShape = false

/-- How many of the next `k` timer ticks emit a beep, with no instruction between them (44 R196). -/
def beepsIn : Nat → State → Nat
  | 0, _ => 0
  | k + 1, s => (if s.timerTick.beep then 1 else 0) + beepsIn k s.timerTick

/-- `k` timer ticks. -/
def timerTicks : Nat → State → State
  | 0, s => s
  | k + 1, s => timerTicks k s.timerTick

/-- The loader has the next move: only then can a step of a legal core be refused. -/
def State.loaderNext (s : State) : Bool :=
  match s.inputs.moves with
  | [] => false
  | .instrTick :: _ => false
  | .timerTick :: _ => false
  | .setKeys _ :: _ => false
  | .fbRead _ _ :: _ => false
  | .loadByte _ _ :: _ => true
  | .load _ :: _ => true
  | .rst :: _ => false

/-! ## The invariant -/

/-- Rising addresses below 4096. -/
def addressesWf (l : List Nat) : Bool := decide (l.Pairwise (· < ·)) && l.all fun a => decide (a < 4096)

/-- The stack holds no more entries than a finite capacity allows (00 R8). -/
def State.stackWithinCap (s : State) : Bool :=
  match s.params.stackCap with
  | none => true
  | some cap => decide (s.stack.length ≤ cap)

/-- `Status` and `Cpu` agree: `Waiting` is reported exactly while the core waits, and a halted core has reported a
condition or `Halted` (60 R200, R206). -/
def State.statusAgrees (s : State) : Bool :=
  match s.cpu, s.status.code with
  | .ready, .ok => true
  | .ready, .reported _ => true
  | .ready, .waiting => false
  | .ready, .halted => false
  | .waiting _, .ok => false
  | .waiting _, .reported _ => false
  | .waiting _, .waiting => true
  | .waiting _, .halted => false
  | .halted, .ok => false
  | .halted, .reported _ => true
  | .halted, .waiting => false
  | .halted, .halted => true

/-- What every step keeps, and what holds after reset. -/
structure State.Inv (s : State) : Prop where
  /-- The parameters are legal (00 R9). -/
  params_legal   : s.params.wf = true
  /-- The memory is in its canonical form (log 15). -/
  mem_canonical  : Memory.wf s.params.fontBase s.mem = true
  /-- `PC[15:12] = 0` (10 R27). -/
  pc_below       : s.pc.toNat < 4096
  /-- Every pushed return address is below 0x1000 (40 R101). -/
  stack_below    : ∀ a ∈ s.stack, a.toNat < 4096
  /-- The stack holds at most `STACK_CAP` entries (00 R8). -/
  stack_within   : s.stackWithinCap = true
  /-- The core is halted only under `ON_CONDITION = halt` (60 R206). -/
  halted_policy  : s.cpu = .halted → s.params.onCondition = .halt
  /-- Under `ON_CONDITION = continue` the core never reports `Halted`; in general `Status` and `Cpu` agree. -/
  status_agrees  : s.statusAgrees = true
  /-- `KeyPrev` is used only under `KEY_WAIT = edge` (10 R21). -/
  keyPrev_level  : s.params.keyWait = .level → s.keyPrev = 0
  /-- The `written` bits are used only under `RESET_POLICY = unwritten_faults` (10 R21). -/
  written_zero   : s.params.resetPolicy = .zero → s.written = .clear
  /-- The written addresses are rising and below 4096. -/
  written_rising : addressesWf s.written.mem = true
  /-- A byte that differs from its reset contents has been written (10 R42). -/
  listed_written : ∀ c ∈ s.mem, s.memWritten c.1 = true

/-! ## What is left unchanged -/

/-- Every byte of memory reads as before, and its `written` bit is as before. -/
def SameMemory (s t : State) : Prop := ∀ a, t.memRead a = s.memRead a ∧ t.memWritten a = s.memWritten a

/-- Every byte outside the `n` bytes from address `base` reads as before, and its `written` bit is as before. -/
def SameMemoryOutside (base n : Nat) (s t : State) : Prop :=
  ∀ a, (∀ k < n, decodeAddr a ≠ decodeAddr (base + k)) →
    t.memRead a = s.memRead a ∧ t.memWritten a = s.memWritten a

/-- Every register but those of `dst` holds what it held, and its `written` bit is as before. -/
def SameRegsExcept (dst : List RegIdx) (s t : State) : Prop :=
  ∀ r, r ∉ dst → t.readReg r = s.readReg r ∧ t.regWritten r = s.regWritten r

/-- `I` is as before. -/
def SameIndex (s t : State) : Prop := t.i = s.i ∧ t.indexWritten = s.indexWritten

/-- `DT` is as before. -/
def SameDelay (s t : State) : Prop := t.dt = s.dt ∧ t.delayWritten = s.delayWritten

/-- `ST` is as before. -/
def SameSound (s t : State) : Prop := t.st = s.st ∧ t.soundWritten = s.soundWritten

/-- The run state, the reported status and the pending inputs are as before. -/
def SameRun (s t : State) : Prop := t.cpu = s.cpu ∧ t.status = s.status ∧ t.inputs = s.inputs

/-- The parameters, the keys, `KeyPrev`, the beep output and the loader's window are as before: no instruction but
FX0A (`KeyPrev`) writes any of them. -/
def SameOutside (s t : State) : Prop :=
  t.params = s.params ∧ t.keys = s.keys ∧ t.keyPrev = s.keyPrev ∧ t.beep = s.beep ∧ t.loadOpen = s.loadOpen

/-- The frame of an instruction that writes only the registers `dst` and perhaps `PC`. -/
def FrameRegs (dst : List RegIdx) (s t : State) : Prop :=
  SameRegsExcept dst s t ∧ SameMemory s t ∧ SameIndex s t ∧ SameDelay s t ∧ SameSound s t ∧ t.fb = s.fb ∧
    t.stack = s.stack ∧ SameRun s t ∧ SameOutside s t

/-- The frame of an instruction that writes only `I`. -/
def FrameIndex (s t : State) : Prop :=
  SameRegsExcept [] s t ∧ SameMemory s t ∧ SameDelay s t ∧ SameSound s t ∧ t.fb = s.fb ∧ t.stack = s.stack ∧
    t.pc = s.pc ∧ SameRun s t ∧ SameOutside s t

/-- The frame of an instruction that stores `n` bytes from address `base` on, and perhaps writes `I`. -/
def FrameStore (base n : Nat) (s t : State) : Prop :=
  SameRegsExcept [] s t ∧ SameMemoryOutside base n s t ∧ SameDelay s t ∧ SameSound s t ∧ t.fb = s.fb ∧
    t.stack = s.stack ∧ t.pc = s.pc ∧ SameRun s t ∧ SameOutside s t

/-- Everything but `PC`, `Cpu`, `Status` and the loader's window is as before: what a condition leaves (60 R205). -/
def SameButReport (s t : State) : Prop :=
  SameRegsExcept [] s t ∧ SameMemory s t ∧ SameIndex s t ∧ SameDelay s t ∧ SameSound s t ∧ t.fb = s.fb ∧
    t.stack = s.stack ∧ t.inputs = s.inputs ∧ t.params = s.params ∧ t.keys = s.keys ∧ t.keyPrev = s.keyPrev ∧
    t.beep = s.beep

/-- The word of an instruction is `w`, written out from the fields of 30 R80, and it decodes to the instruction. -/
def HasWord (i : Instr) (w : Nat) : Prop := (encode i).toNat = w ∧ decode .full (encode i) = .ok i

/-- A sprite drawn from `(x0, y0)` has a 1 bit on pixel `(r, c)`: bit `7 - dc` of row `dr`, where the pixel is
`(y0 + dr) mod 32`, `(x0 + dc) mod 64` (43 R171). -/
def SpriteCovers (x0 y0 : Byte) (rows : List Byte) (r : Fin 32) (c : Fin 64) : Prop :=
  ∃ dr dc, ∃ h : dr < rows.length, dc < 8 ∧ r.val = (y0.toNat + dr) % 32 ∧ c.val = (x0.toNat + dc) % 64 ∧
    rows[dr].getLsbD (7 - dc) = true

/-- The run state after a reported condition (60 R206). -/
def State.cpuAfterCondition (s : State) : Cpu :=
  match s.params.onCondition with
  | .halt => .halted
  | .proceed => s.cpu

/-- The next move is an `instr_tick`, queued or taken because nothing is queued, and `rest` is queued after it (log
2). -/
def State.ticksThen (s : State) (rest : List HostMove) : Prop :=
  s.inputs.moves = .instrTick :: rest ∨ s.inputs.moves = [] ∧ rest = []

/-- The next step is an `instr_tick` of a legal core that is ready and whose fetch finds written bytes: the conditions
under which 30 R85 comes to `decode`; `rest` is queued after it. -/
def State.fetches (s : State) (rest : List HostMove) : Prop :=
  s.params.wf = true ∧ s.ticksThen rest ∧ s.cpu = .ready ∧ s.fetchReadable = true

/-- The byte that the fetch reads at `PC` (`0`) and the one at `PC + 1` (30 R83). -/
def State.fetchedByte (s : State) : Nat → Byte
  | 0 => highByte s.fetchWord
  | _ => lowByte s.fetchWord

/-! ## The writers of the registers -/

/-- The registers an instruction writes: the "writes" column of 10 R24. -/
def regsWrittenBy (p : Params) : Instr → List RegIdx
  | .cls => []
  | .ret => []
  | .jp _ => []
  | .call _ => []
  | .seImm _ _ => []
  | .sneImm _ _ => []
  | .seReg _ _ => []
  | .ldImm x _ => [x]
  | .addImm x _ => [x]
  | .ldReg x _ => [x]
  | .orReg x _ => if p.logicVfReset then [x, vf] else [x]
  | .andReg x _ => if p.logicVfReset then [x, vf] else [x]
  | .xorReg x _ => if p.logicVfReset then [x, vf] else [x]
  | .addReg x _ => [x, vf]
  | .subReg x _ => [x, vf]
  | .shr x _ => [x, vf]
  | .subnReg x _ => [x, vf]
  | .shl x _ => [x, vf]
  | .sneReg _ _ => []
  | .ldI _ => []
  | .jpOffset _ => []
  | .rnd x _ => [x]
  | .drw _ _ _ => [vf]
  | .skp _ => []
  | .sknp _ => []
  | .ldVxDt x => [x]
  | .ldVxK x => [x]
  | .ldDtVx _ => []
  | .ldStVx _ => []
  | .addI _ => []
  | .ldFont _ => []
  | .ldBcd _ => []
  | .storeRegs _ => []
  | .loadRegs x => (List.finRange 16).filter fun r => decide (r ≤ x)

/-! ## What an instruction reads -/

/-- The registers an instruction reads: the "reads" column of 10 R24. -/
def regsReadBy (p : Params) : Instr → List RegIdx
  | .cls => []
  | .ret => []
  | .jp _ => []
  | .call _ => []
  | .seImm x _ => [x]
  | .sneImm x _ => [x]
  | .seReg x y => [x, y]
  | .ldImm _ _ => []
  | .addImm x _ => [x]
  | .ldReg _ y => [y]
  | .orReg x y => [x, y]
  | .andReg x y => [x, y]
  | .xorReg x y => [x, y]
  | .addReg x y => [x, y]
  | .subReg x y => [x, y]
  | .shr x y => if p.shiftSrc = .vy then [y] else [x]
  | .subnReg x y => [x, y]
  | .shl x y => if p.shiftSrc = .vy then [y] else [x]
  | .sneReg x y => [x, y]
  | .ldI _ => []
  | .jpOffset nnn => if p.jumpOffsetReg = .v0 then [0] else [Fin.ofNat 16 (nnn.toNat / 256)]
  | .rnd _ _ => []
  | .drw x y _ => [x, y]
  | .skp x => [x]
  | .sknp x => [x]
  | .ldVxDt _ => []
  | .ldVxK _ => []
  | .ldDtVx x => [x]
  | .ldStVx x => [x]
  | .addI x => [x]
  | .ldFont x => [x]
  | .ldBcd x => [x]
  | .storeRegs x => (List.finRange 16).filter fun r => decide (r ≤ x)
  | .loadRegs _ => []

/-- The instruction reads `I`: DXYN, FX1E, FX33, FX55 and FX65 (10 R25), DXYN also with `n = 0` (log 6). -/
def ReadsIndex (i : Instr) : Prop :=
  ∃ x y n, i = .drw x y n ∨ i = .addI x ∨ i = .ldBcd x ∨ i = .storeRegs x ∨ i = .loadRegs x

/-- The instruction reads the byte at `I + k`: DXYN the first `n`, FX65 the first `x + 1` (20 R63). -/
def ReadsByte (i : Instr) (k : Nat) : Prop :=
  (∃ x y n, i = .drw x y n ∧ k < n.val) ∨ ∃ x, i = .loadRegs x ∧ k ≤ x.val

/-- Something the instruction reads has no value: a register of 10 R24, `I` of R25, `DT` of R35, a byte of 20 R63. -/
def ReadsUnwritten (i : Instr) (s : State) : Prop :=
  (∃ r ∈ regsReadBy s.params i, s.regWritten r = false) ∨ (ReadsIndex i ∧ s.indexWritten = false) ∨
    ((∃ x, i = .ldVxDt x) ∧ s.delayWritten = false) ∨ ∃ k, ReadsByte i k ∧ s.memWritten (s.dataAddr k) = false

end Sys2Proof.Machine
end

