-- ==== Sys2Proof/Certificates/Slice0/Obligations.lean ====
section
/-! DEFINITION. The statements for the provers. Where a statement says that registers or bytes "hold a value", that is
always so under the default `RESET_POLICY = zero` (10 R42). -/

open Sys2Proof Sys2Proof.Machine

/-! ## Encoding -/

/-- Decoding the bytes of an instruction of the build gives the instruction back and leaves the rest (30 R80, R86, R91,
R94). -/
def Obligations.DecodeInvertsEncode : Prop :=
  ∀ (o : OpSet) (i : Instr) (rest : List Byte),
    i.wf o = true → decodeBytes o (bytesOfWord (encode i) ++ rest) = .ok (i, rest)

/-- A word has one meaning: the instruction decoded from it is one of the build's, encodes to it, and its row of the
opcode table holds of it (30 R86, opcode_table.json). -/
def Obligations.EncodeInvertsDecode : Prop :=
  ∀ (o : OpSet) (w : Word) (i : Instr),
    decode o w = .ok i → encode i = w ∧ i.wf o = true ∧ (rowOf i).holds w = true ∧ rowOf i ∈ opcodeTable

/-- The fields of a word (30 R80). -/
def Obligations.FieldsSplitTheWord : Prop :=
  ∀ w : Word,
    (fieldItype w).toNat = w.toNat / 4096 ∧ (fieldX w).val = w.toNat / 256 % 16 ∧
      (fieldY w).val = w.toNat / 16 % 16 ∧ (fieldN w).toNat = w.toNat % 16 ∧ (fieldNN w).toNat = w.toNat % 256 ∧
      (fieldNNN w).toNat = w.toNat % 4096 ∧
      (fieldNNN w).toNat = 256 * (fieldX w).val + 16 * (fieldY w).val + (fieldN w).toNat

/-- Every word of the ten itypes without a sub-opcode decodes to its operation (30 R90). -/
def Obligations.PlainItypesAlwaysDecode : Prop :=
  ∀ w : Word,
    (fieldItype w = 0x1#4 → decode .full w = .ok (.jp (fieldNNN w))) ∧
      (fieldItype w = 0x2#4 → decode .full w = .ok (.call (fieldNNN w))) ∧
      (fieldItype w = 0x3#4 → decode .full w = .ok (.seImm (fieldX w) (fieldNN w))) ∧
      (fieldItype w = 0x4#4 → decode .full w = .ok (.sneImm (fieldX w) (fieldNN w))) ∧
      (fieldItype w = 0x6#4 → decode .full w = .ok (.ldImm (fieldX w) (fieldNN w))) ∧
      (fieldItype w = 0x7#4 → decode .full w = .ok (.addImm (fieldX w) (fieldNN w))) ∧
      (fieldItype w = 0xA#4 → decode .full w = .ok (.ldI (fieldNNN w))) ∧
      (fieldItype w = 0xB#4 → decode .full w = .ok (.jpOffset (fieldNNN w))) ∧
      (fieldItype w = 0xC#4 → decode .full w = .ok (.rnd (fieldX w) (fieldNN w))) ∧
      (fieldItype w = 0xD#4 → decode .full w = .ok (.drw (fieldX w) (fieldY w) (fieldN w).toFin))

/-- The words that do not decode under `OPSET = full` are exactly those of 30 R92 (the spec's decision D18). -/
def Obligations.UnimplementedWordsAreThoseOfTheTable : Prop :=
  ∀ w : Word, decode .full w = .error (.unimplemented w) ↔
    (w.toNat < 0x1000 ∧ w ≠ 0x00E0#16 ∧ w ≠ 0x00EE#16) ∨
      (w.toNat / 4096 = 5 ∧ w.toNat % 16 ≠ 0) ∨
      (w.toNat / 4096 = 8 ∧ w.toNat % 16 ∈ [0x8, 0x9, 0xA, 0xB, 0xC, 0xD, 0xF]) ∨
      (w.toNat / 4096 = 9 ∧ w.toNat % 16 ≠ 0) ∨
      (w.toNat / 4096 = 0xE ∧ w.toNat % 256 ∉ [0x9E, 0xA1]) ∨
      (w.toNat / 4096 = 0xF ∧ w.toNat % 256 ∉ [0x07, 0x0A, 0x15, 0x18, 0x1E, 0x29, 0x33, 0x55, 0x65])

/-- Under `OPSET = min6` a word decodes exactly when it is 0x00E0 or its itype is 1, 6, 7, A or D, and then as under
`full` (30 R91; the spec's decision D1). -/
def Obligations.Min6DecodesItsSixOperations : Prop :=
  ∀ w : Word,
    ((∃ i, decode .min6 w = .ok i) ↔ w = 0x00E0#16 ∨ w.toNat / 4096 ∈ [0x1, 0x6, 0x7, 0xA, 0xD]) ∧
      (∀ i, decode .min6 w = .ok i → decode .full w = .ok i)

/-- Words written out from the encodings of 30 R86 decode to their instructions, one or more of each family. -/
def Obligations.WordsWrittenOutDecode : Prop :=
  decode .full 0x00EE#16 = .ok .ret ∧ decode .full 0x2300#16 = .ok (.call 0x300) ∧
    decode .full 0x5120#16 = .ok (.seReg 1 2) ∧ decode .full 0x8F27#16 = .ok (.subnReg 15 2) ∧
    decode .full 0xD12F#16 = .ok (.drw 1 2 15) ∧ decode .full 0xE5A1#16 = .ok (.sknp 5) ∧
    decode .full 0xFF65#16 = .ok (.loadRegs 15) ∧ decode .full 0x8128#16 = .error (.unimplemented 0x8128#16)

/-! ## Fetch and the step -/

/-- The fetch reads the high byte at `PC` and the low byte at `PC + 1`, each address reduced modulo 4096, and then
advances `PC` by 2 modulo 4096 (30 R83, R84). -/
def Obligations.FetchReadsBigEndianAndAdvances : Prop :=
  ∀ s : State,
    s.fetchWord.toNat = 256 * (s.memRead s.pc.toNat).toNat + (s.memRead (s.pc.toNat + 1)).toNat ∧
      s.memRead (s.pc.toNat + 1) = s.memRead ((s.pc.toNat + 1) % 4096) ∧
      s.afterFetch.pc.toNat = (s.pc.toNat + 2) % 4096 ∧ SameButReport s s.afterFetch

/-- A step of a ready core whose bytes at `PC` decode to `i` is `i` at the state with `PC` past the word; the same when an
`instr_tick` is the queued next move (30 R83 to R85). The model's own choices in it: `Status` is ready to be left `Ok`
(log 8), the tick closes the loader's window (log 9, from 70 R232), and with nothing queued the instruction loop ticks
(log 2). -/
def Obligations.StepRunsTheDecodedInstruction : Prop :=
  ∀ (s : State) (i : Instr),
    s.params.wf = true → s.cpu = .ready → s.memWritten s.pc.toNat = true → s.memWritten (s.pc.toNat + 1) = true →
    decodeBytes s.params.opset [s.memRead s.pc.toNat, s.memRead (s.pc.toNat + 1)] = .ok (i, []) →
      (s.inputs.moves = [] →
        step s = exec i { s with
          pc := BitVec.ofNat 16 ((s.pc.toNat + 2) % 4096)
          status := ⟨.ok, s.status.word⟩
          loadOpen := false }) ∧
      (∀ rest, s.inputs.moves = .instrTick :: rest →
        step s = exec i { s with
          pc := BitVec.ofNat 16 ((s.pc.toNat + 2) % 4096)
          status := ⟨.ok, s.status.word⟩
          loadOpen := false
          inputs := { s.inputs with moves := rest } })

/-- A fetched word that does not decode is reported with its word, and `Cpu` follows `ON_CONDITION`; every register,
memory and the display buffer are as before, `PC` is past the word and the loader's window is closed (60 R201, R206; the
spec's decision D12; log 9 for the window, log 2 for the queue). -/
def Obligations.UnimplementedWordIsReported : Prop :=
  ∀ (s : State) (rest : List HostMove), s.fetches rest → (∀ i, decode s.params.opset s.fetchWord ≠ .ok i) →
    ∃ t, step s = .next t ∧ t.status = ⟨.reported .unimplemented, s.fetchWord⟩ ∧ t.cpu = s.cpuAfterCondition ∧
      t.loadOpen = false ∧ t.pc.toNat = (s.pc.toNat + 2) % 4096 ∧ SameButReport (s.withMoves rest) t

/-- Under `RESET_POLICY = unwritten_faults`, a fetch of an unwritten byte is reported with the fetch address, before
any decoding, and changes nothing else but `PC`, `Cpu` and the loader's window (60 R204, R207, R206; the spec's
decisions D7, D12; log 9 for the window, log 2 for the queue). -/
def Obligations.UnwrittenFetchIsReported : Prop :=
  ∀ (s : State) (rest : List HostMove), s.params.wf = true → s.ticksThen rest → s.cpu = .ready →
    (s.memWritten s.pc.toNat = false ∨ s.memWritten (s.pc.toNat + 1) = false) →
    ∃ t, step s = .next t ∧ t.status = ⟨.reported .unwrittenRead, s.pc⟩ ∧ t.cpu = s.cpuAfterCondition ∧
      t.loadOpen = false ∧ t.pc.toNat = (s.pc.toNat + 2) % 4096 ∧ SameButReport (s.withMoves rest) t

/-- An instruction that reports a condition has changed nothing but `Status` and `Cpu`; `cond_word` is its word, and
`Cpu` follows `ON_CONDITION` (60 R205, R206; the spec's decisions D11, D12). -/
def Obligations.ConditionsArePrecise : Prop :=
  ∀ (i : Instr) (s t : State), s.conditionReported = false → exec i s = .next t → t.conditionReported = true →
    t = { s with status := t.status, cpu := s.cpuAfterCondition } ∧ t.status.word = encode i

/-- An instruction reports `UnwrittenRead` with its word, and does nothing else, when something it reads has no value: a
register of the "reads" column of 10 R24, `I` (R25), `DT` (R35) or a byte of 20 R63; otherwise it does not report it.
Under `RESET_POLICY = zero` everything has a value (10 R42, 60 R204; the spec's decision D7). The model's own choices in
it: DXYN reads `I` also with `n = 0` (log 6), and `cond_word` is the instruction's encoding (log 17). -/
def Obligations.UnwrittenReadStopsTheInstruction : Prop :=
  ∀ (i : Instr) (s : State),
    (s.readable i = false ↔ ReadsUnwritten i s) ∧
      (ReadsUnwritten i s →
        exec i s = .next { s with status := ⟨.reported .unwrittenRead, encode i⟩, cpu := s.cpuAfterCondition }) ∧
      (¬ ReadsUnwritten i s → s.status.code = .ok →
        ∃ t, exec i s = .next t ∧ t.status.code ≠ .reported .unwrittenRead) ∧
      (s.params.resetPolicy = .zero → ¬ ReadsUnwritten i s)

/-- A tick of a halted core reports `Halted` and changes nothing else but the loader's window (30 R85, 60 R206; the
spec's decision D12; log 9 for the window, log 2 for the queue). -/
def Obligations.HaltedTickOnlyReports : Prop :=
  ∀ (s : State) (rest : List HostMove), s.params.wf = true → s.ticksThen rest → s.cpu = .halted →
    step s = .next { s.withMoves rest with status := ⟨.halted, s.status.word⟩, loadOpen := false }

/-- No move but `rst` leaves `Halted`; the others leave `PC`, the stack, the display, the registers and `I` alone, and
all but the loader's leave memory alone (60 R206; the spec's decisions D12, D26). -/
def Obligations.OnlyResetLeavesHalted : Prop :=
  ∀ s t : State, s.cpu = .halted → (∀ rest, s.inputs.moves ≠ .rst :: rest) → step s = .next t →
    t.cpu = .halted ∧ t.pc = s.pc ∧ t.stack = s.stack ∧ t.fb = s.fb ∧ SameRegsExcept [] s t ∧ SameIndex s t ∧
      (s.loaderNext = false → SameMemory s t)

/-- Every step of a legal core answers a next state, but for the loader's moves: no memory access, no instruction and
no condition stops the machine (20 R61, 60 R205, 70 R232). -/
def Obligations.EveryStepAnswersNext : Prop :=
  ∀ s : State, s.params.wf = true → s.loaderNext = false → ∃ t, step s = .next t

/-- Every step keeps the invariant (10 R27, R42; 00 R8, R9; 60 R200, R206; log 15). -/
def Obligations.StepKeepsTheInvariant : Prop :=
  ∀ s t : State, s.Inv → step s = .next t → t.Inv

/-- The invariant holds after reset, in every legal build. -/
def Obligations.ResetHasTheInvariant : Prop :=
  State.reset.Inv ∧ ∀ p : Params, p.wf = true → (State.resetWith p).Inv

/-! ## Reset and loading -/

/-- `rst` gives every piece of state its reset value; the keys follow the `keys` input and the parameters stay (10 R41,
70 R230; the values but `PC`, `Cpu` and the presence of the font are the spec's own decisions D7 and D8). The model's own
choices in it: under `unwritten_faults` a register or byte that has no value holds 0 (log 10), `beep` is 0 (log 5), the keys and
the queues stay (log 16), the loader's window opens (log 9). -/
def Obligations.ResetSetsEveryField : Prop :=
  ∀ (s : State) (rest : List HostMove), s.params.wf = true → s.inputs.moves = .rst :: rest →
    ∃ t, step s = .next t ∧ t.pc = 0x0200#16 ∧ (∀ r, t.readReg r = 0) ∧ t.i = 0 ∧ t.dt = 0 ∧ t.st = 0 ∧
      t.stack = [] ∧ (∀ r c, t.fbPix r c = false) ∧ t.cpu = .ready ∧ t.status = ⟨.ok, 0⟩ ∧ t.beep = false ∧
      t.keyPrev = 0 ∧ t.keys = s.keys ∧ t.params = s.params ∧ t.loadOpen = true ∧
      t.inputs = { s.inputs with moves := rest } ∧ (∀ a, t.memRead a = resetByte s.params.fontBase (a % 4096)) ∧
      (s.params.resetPolicy = .unwrittenFaults →
        (∀ r, t.regWritten r = false) ∧ t.indexWritten = false ∧ t.delayWritten = false ∧ t.soundWritten = false ∧
          ∀ a, t.memWritten a = inFont s.params.fontBase (a % 4096))

/-- After reset the font stands at `FONT_BASE`, glyph `d` at `FONT_BASE + 5 * d`, and every other byte is 0 (20 R67,
10 R41; the address, the bytes and the zeros are the spec's own decisions D6 and D8; the 0 of a byte that has no value
under `unwritten_faults` is the model's own choice, log 10). -/
def Obligations.ResetMemoryHoldsTheFont : Prop :=
  ∀ p : Params, p.wf = true →
    (∀ d < 16, (State.resetWith p).memReadList (p.fontBase.toNat + 5 * d) 5 =
      ([[0xF0, 0x90, 0x90, 0x90, 0xF0], [0x20, 0x60, 0x20, 0x20, 0x70], [0xF0, 0x10, 0xF0, 0x80, 0xF0],
        [0xF0, 0x10, 0xF0, 0x10, 0xF0], [0x90, 0x90, 0xF0, 0x10, 0x10], [0xF0, 0x80, 0xF0, 0x10, 0xF0],
        [0xF0, 0x80, 0xF0, 0x90, 0xF0], [0xF0, 0x10, 0x20, 0x40, 0x40], [0xF0, 0x90, 0xF0, 0x90, 0xF0],
        [0xF0, 0x90, 0xF0, 0x10, 0xF0], [0xF0, 0x90, 0xF0, 0x90, 0x90], [0xE0, 0x90, 0xE0, 0x90, 0xE0],
        [0xF0, 0x80, 0x80, 0x80, 0xF0], [0xE0, 0x90, 0x90, 0x90, 0xE0], [0xF0, 0x80, 0xF0, 0x80, 0xF0],
        [0xF0, 0x80, 0xF0, 0x80, 0x80]] : List (List Byte)).getD d []) ∧
      ∀ a < 4096, (a < p.fontBase.toNat ∨ p.fontBase.toNat + 80 ≤ a) → (State.resetWith p).memRead a = 0

/-- The loader deposits an image that fits at 0x200 and changes nothing else; a longer image, and any image after the
first `instr_tick`, is refused (70 R232; the spec's decision D28). -/
def Obligations.LoaderDepositsTheImage : Prop :=
  ∀ (s : State) (image : List Byte) (rest : List HostMove), s.params.wf = true →
    Memory.wf s.params.fontBase s.mem = true → s.inputs.moves = .load image :: rest →
    (s.loadOpen = true → image.length ≤ 3584 →
      ∃ t, step s = .next t ∧ (∀ k, ∀ h : k < image.length, t.memRead (0x200 + k) = image[k] ∧
          t.memWritten (0x200 + k) = true) ∧
        SameRegsExcept [] s t ∧ SameMemoryOutside 0x200 image.length s t ∧ SameIndex s t ∧ SameDelay s t ∧
        SameSound s t ∧ t.fb = s.fb ∧ t.stack = s.stack ∧ t.pc = s.pc ∧ t.cpu = s.cpu ∧ t.status = s.status ∧
        SameOutside s t ∧ t.inputs = { s.inputs with moves := rest }) ∧
      (s.loadOpen = true → 3584 < image.length → step s = .refused .imageTooLong) ∧
      (s.loadOpen = false → step s = .refused .loadAfterStart)

/-- A write through the loader's port: the byte at an address from 0x200 on, before the first `instr_tick`, and nothing
else changes; otherwise it is refused (00 R17, 70 R232; the spec's decision D28, and log 9 for the refusal below
0x200). -/
def Obligations.LoaderPortWritesOneByte : Prop :=
  ∀ (s : State) (a : Addr) (b : Byte) (rest : List HostMove), s.params.wf = true →
    Memory.wf s.params.fontBase s.mem = true → s.inputs.moves = .loadByte a b :: rest →
    (s.loadOpen = true → 0x200 ≤ a.toNat →
      ∃ t, step s = .next t ∧ t.memRead a.toNat = b ∧ t.memWritten a.toNat = true ∧
        SameMemoryOutside a.toNat 1 s t ∧ SameRegsExcept [] s t ∧ SameIndex s t ∧ SameDelay s t ∧ SameSound s t ∧
        t.fb = s.fb ∧ t.stack = s.stack ∧ t.pc = s.pc ∧ t.cpu = s.cpu ∧ t.status = s.status ∧ SameOutside s t ∧
        t.inputs = (s.withMoves rest).inputs) ∧
      (s.loadOpen = true → a.toNat < 0x200 → step s = .refused .loadOutsideProgramArea) ∧
      (s.loadOpen = false → step s = .refused .loadAfterStart)

/-! ## Memory -/

/-- Every address is reduced modulo 4096, for reads and writes alike; a write leaves every other byte alone (20 R61). The
premise and the last clause are about the canonical form, the model's own way to hold memory (log 15). -/
def Obligations.AddressesReduceModulo4096 : Prop :=
  ∀ (s : State) (a k : Nat) (v : Byte), Memory.wf s.params.fontBase s.mem = true →
    s.memRead (a + 4096 * k) = s.memRead a ∧ (s.memWrite a v).memRead (a + 4096 * k) = v ∧
      (∀ b, b % 4096 ≠ a % 4096 → (s.memWrite (a + 4096 * k) v).memRead b = s.memRead b) ∧
      Memory.wf (s.memWrite a v).params.fontBase (s.memWrite a v).mem = true

/-- A store by FX55 or FX33 over a byte of the next instruction is seen by its fetch: each of the two bytes at `PC` that
the block covers, wherever it begins, is fetched as the byte stored there, and a byte it does not cover as before (20
R74, 70 R242; the spec's decision D23). -/
def Obligations.StoredBytesAreFetchedNext : Prop :=
  ∀ (s : State) (x : RegIdx), Memory.wf s.params.fontBase s.mem = true → s.indexWritten = true →
    ((∀ r ≤ x, s.regWritten r = true) →
      ∃ t, exec (.storeRegs x) s = .next t ∧ t.pc = s.pc ∧ ∀ j < 2,
        (∀ r ≤ x, decodeAddr (s.pc.toNat + j) = decodeAddr (s.dataAddr r.val) →
          t.fetchedByte j = s.readReg r ∧ t.memWritten (s.pc.toNat + j) = true) ∧
        ((∀ r ≤ x, decodeAddr (s.pc.toNat + j) ≠ decodeAddr (s.dataAddr r.val)) →
          t.fetchedByte j = s.fetchedByte j ∧ t.memWritten (s.pc.toNat + j) = s.memWritten (s.pc.toNat + j))) ∧
      (s.regWritten x = true →
        ∃ t, exec (.ldBcd x) s = .next t ∧ t.pc = s.pc ∧ ∀ j < 2,
          (∀ k < 3, decodeAddr (s.pc.toNat + j) = decodeAddr (s.dataAddr k) →
            (t.fetchedByte j).toNat = (s.readReg x).toNat / 10 ^ (2 - k) % 10 ∧
              t.memWritten (s.pc.toNat + j) = true) ∧
          ((∀ k < 3, decodeAddr (s.pc.toNat + j) ≠ decodeAddr (s.dataAddr k)) →
            t.fetchedByte j = s.fetchedByte j ∧ t.memWritten (s.pc.toNat + j) = s.memWritten (s.pc.toNat + j)))

/-! ## Control transfer -/

/-- 1NNN: `PC` is `nnn`, with no other state changed (40 R102). -/
def Obligations.JumpSetsPcOnly : Prop :=
  ∀ (s : State) (nnn : Addr),
    HasWord (.jp nnn) (0x1000 + nnn.toNat) ∧
      exec (.jp nnn) s = .next { s with pc := BitVec.ofNat 16 nnn.toNat }

/-- 2NNN pushes the address of the next instruction and jumps; on a full stack of finite capacity it reports
`StackOverflow` and changes nothing else (40 R103, 60 R203; the spec's decision D10). -/
def Obligations.CallPushesOrOverflows : Prop :=
  ∀ (s : State) (nnn : Addr),
    HasWord (.call nnn) (0x2000 + nnn.toNat) ∧
      ((∀ cap, s.params.stackCap = some cap → s.stack.length < cap) →
        exec (.call nnn) s = .next { s with stack := s.stack ++ [s.pc], pc := BitVec.ofNat 16 nnn.toNat }) ∧
      (s.params.stackCap = some s.stack.length →
        exec (.call nnn) s = .next { s with
          status := ⟨.reported .stackOverflow, encode (.call nnn)⟩, cpu := s.cpuAfterCondition })

/-- 00EE pops into `PC`; on an empty stack it reports `StackUnderflow` and changes nothing else (40 R101, 60 R202; the
spec's decision D11). -/
def Obligations.ReturnPopsOrUnderflows : Prop :=
  HasWord .ret 0x00EE ∧
    (∀ (s : State) (older : List Word) (a : Word), s.stack = older ++ [a] →
      exec .ret s = .next { s with stack := older, pc := BitVec.ofNat 16 (a.toNat % 4096) }) ∧
    ∀ s : State, s.stack = [] →
      exec .ret s = .next { s with status := ⟨.reported .stackUnderflow, 0x00EE#16⟩, cpu := s.cpuAfterCondition }

/-- A return right after a call comes back behind the call, with the state as it was, wherever the subroutine has left
`PC` (40 R101, R103, R109). -/
def Obligations.ReturnUndoesCall : Prop :=
  ∀ (s t : State) (nnn : Addr) (p : Word), s.pc.toNat < 4096 → s.stackFull = false →
    exec (.call nnn) s = .next t → exec .ret { t with pc := p } = .next s

/-- 3XNN and 4XNN skip exactly the next two bytes when `V[x]` equals, or differs from, `nn` (40 R104, R105). -/
def Obligations.SkipsOnImmediate : Prop :=
  ∀ (s : State) (x : RegIdx) (nn : Byte), s.regWritten x = true →
    (HasWord (.seImm x nn) (0x3000 + 0x100 * x.val + nn.toNat) ∧
      ∃ t, exec (.seImm x nn) s = .next t ∧ FrameRegs [] s t ∧
        (s.readReg x = nn → t.pc.toNat = (s.pc.toNat + 2) % 4096) ∧ (s.readReg x ≠ nn → t.pc = s.pc)) ∧
      HasWord (.sneImm x nn) (0x4000 + 0x100 * x.val + nn.toNat) ∧
      ∃ t, exec (.sneImm x nn) s = .next t ∧ FrameRegs [] s t ∧
        (s.readReg x ≠ nn → t.pc.toNat = (s.pc.toNat + 2) % 4096) ∧ (s.readReg x = nn → t.pc = s.pc)

/-- 5XY0 and 9XY0 skip the next two bytes when `V[x]` and `V[y]` are equal, or differ; with `n` not 0 the words are
unimplemented (40 R106, R107). -/
def Obligations.SkipsOnRegisters : Prop :=
  ∀ (s : State) (x y : RegIdx), s.regWritten x = true → s.regWritten y = true →
    (HasWord (.seReg x y) (0x5000 + 0x100 * x.val + 0x10 * y.val) ∧
      ∃ t, exec (.seReg x y) s = .next t ∧ FrameRegs [] s t ∧
        (s.readReg x = s.readReg y → t.pc.toNat = (s.pc.toNat + 2) % 4096) ∧
        (s.readReg x ≠ s.readReg y → t.pc = s.pc)) ∧
      (HasWord (.sneReg x y) (0x9000 + 0x100 * x.val + 0x10 * y.val) ∧
        ∃ t, exec (.sneReg x y) s = .next t ∧ FrameRegs [] s t ∧
          (s.readReg x ≠ s.readReg y → t.pc.toNat = (s.pc.toNat + 2) % 4096) ∧
          (s.readReg x = s.readReg y → t.pc = s.pc)) ∧
      ∀ w : Word, (fieldItype w = 0x5#4 ∨ fieldItype w = 0x9#4) → fieldN w ≠ 0#4 →
        decode .full w = .error (.unimplemented w)

/-- EX9E and EXA1 skip the next two bytes when the key of the low nibble of `V[x]` is pressed, or is not (44 R186,
R187; for `V[x]` above 15 the reduction to the low nibble is the spec's own decision D14, R185). -/
def Obligations.SkipsOnKeys : Prop :=
  ∀ (s : State) (x : RegIdx), s.regWritten x = true →
    (HasWord (.skp x) (0xE09E + 0x100 * x.val) ∧
      ∃ t, exec (.skp x) s = .next t ∧ FrameRegs [] s t ∧
        (s.keys.getLsbD ((s.readReg x).toNat % 16) = true → t.pc.toNat = (s.pc.toNat + 2) % 4096) ∧
        (s.keys.getLsbD ((s.readReg x).toNat % 16) = false → t.pc = s.pc)) ∧
      HasWord (.sknp x) (0xE0A1 + 0x100 * x.val) ∧
      ∃ t, exec (.sknp x) s = .next t ∧ FrameRegs [] s t ∧
        (s.keys.getLsbD ((s.readReg x).toNat % 16) = false → t.pc.toNat = (s.pc.toNat + 2) % 4096) ∧
        (s.keys.getLsbD ((s.readReg x).toNat % 16) = true → t.pc = s.pc)

/-- BNNN jumps to `nnn` plus `V0`, or plus `V[nnn[11:8]]` under `JUMP_OFFSET_REG = vx`, modulo 4096 (40 R108; the
spec's decisions D5, D9). -/
def Obligations.JumpAddsTheOffsetRegister : Prop :=
  ∀ (s : State) (nnn : Addr) (r : RegIdx),
    (s.params.jumpOffsetReg = .v0 ∧ r = 0 ∨ s.params.jumpOffsetReg = .vx ∧ r.val = nnn.toNat / 256) →
    s.regWritten r = true →
    HasWord (.jpOffset nnn) (0xB000 + nnn.toNat) ∧
      ∃ t, exec (.jpOffset nnn) s = .next t ∧ FrameRegs [] s t ∧
        t.pc.toNat = (nnn.toNat + (s.readReg r).toNat) % 4096

/-! ## Register and ALU operations -/

/-- 6XNN and 8XY0 set `V[x]` to `nn` and to `V[y]`, and write nothing else (41 R120, R122). -/
def Obligations.LoadsSetTheRegister : Prop :=
  ∀ (s : State) (x y : RegIdx) (nn : Byte),
    (HasWord (.ldImm x nn) (0x6000 + 0x100 * x.val + nn.toNat) ∧
      ∃ t, exec (.ldImm x nn) s = .next t ∧ FrameRegs [x] s t ∧ t.pc = s.pc ∧ t.readReg x = nn ∧
        t.regWritten x = true) ∧
      (HasWord (.ldReg x y) (0x8000 + 0x100 * x.val + 0x10 * y.val)) ∧
      (s.regWritten y = true →
        ∃ t, exec (.ldReg x y) s = .next t ∧ FrameRegs [x] s t ∧ t.pc = s.pc ∧ t.readReg x = s.readReg y ∧
          t.regWritten x = true)

/-- 7XNN adds `nn` to `V[x]` modulo 256 and writes no other register: no carry, unconditionally (41 R121). -/
def Obligations.AddImmediateWrapsWithoutFlag : Prop :=
  ∀ (s : State) (x : RegIdx) (nn : Byte), s.regWritten x = true →
    HasWord (.addImm x nn) (0x7000 + 0x100 * x.val + nn.toNat) ∧
      ∃ t, exec (.addImm x nn) s = .next t ∧ FrameRegs [x] s t ∧ t.pc = s.pc ∧
        (t.readReg x).toNat = ((s.readReg x).toNat + nn.toNat) % 256

/-- 8XY1, 8XY2 and 8XY3 combine bit by bit; `VF` ends 0 under `LOGIC_VF_RESET`, also when it is the destination, and is
otherwise not written as a flag (41 R123 to R125; the spec's decision D3). -/
def Obligations.LogicCombinesBitwise : Prop :=
  ∀ (s : State) (x y : RegIdx) (i : Instr) (f : Bool → Bool → Bool) (n : Nat),
    (i = .orReg x y ∧ f = or ∧ n = 1 ∨ i = .andReg x y ∧ f = and ∧ n = 2 ∨ i = .xorReg x y ∧ f = xor ∧ n = 3) →
    s.regWritten x = true → s.regWritten y = true →
    HasWord i (0x8000 + 0x100 * x.val + 0x10 * y.val + n) ∧
      ∃ t, exec i s = .next t ∧ FrameRegs (if s.params.logicVfReset then [x, vf] else [x]) s t ∧ t.pc = s.pc ∧
        (s.params.logicVfReset = true → t.readReg vf = 0) ∧
        ((s.params.logicVfReset = true → x ≠ vf) → ∀ k < 8,
          (t.readReg x).getLsbD k = f ((s.readReg x).getLsbD k) ((s.readReg y).getLsbD k))

/-- 8XY4: the sum modulo 256 in `V[x]`, the carry in `VF`, written last (41 R126). -/
def Obligations.AddSetsCarry : Prop :=
  ∀ (s : State) (x y : RegIdx), s.regWritten x = true → s.regWritten y = true →
    HasWord (.addReg x y) (0x8004 + 0x100 * x.val + 0x10 * y.val) ∧
      ∃ t, exec (.addReg x y) s = .next t ∧ FrameRegs [x, vf] s t ∧ t.pc = s.pc ∧
        (x ≠ vf → (t.readReg x).toNat = ((s.readReg x).toNat + (s.readReg y).toNat) % 256) ∧
        t.readReg vf = if (s.readReg x).toNat + (s.readReg y).toNat > 255 then 1 else 0

/-- 8XY5 and 8XY7: the difference modulo 256 in `V[x]`, not-borrow in `VF`, written last (41 R127, R129). -/
def Obligations.SubtractionsSetNotBorrow : Prop :=
  ∀ (s : State) (x y : RegIdx), s.regWritten x = true → s.regWritten y = true →
    (HasWord (.subReg x y) (0x8005 + 0x100 * x.val + 0x10 * y.val) ∧
      ∃ t, exec (.subReg x y) s = .next t ∧ FrameRegs [x, vf] s t ∧ t.pc = s.pc ∧
        (x ≠ vf → (t.readReg x).toNat = ((s.readReg x).toNat + 256 - (s.readReg y).toNat) % 256) ∧
        t.readReg vf = if (s.readReg x).toNat ≥ (s.readReg y).toNat then 1 else 0) ∧
      HasWord (.subnReg x y) (0x8007 + 0x100 * x.val + 0x10 * y.val) ∧
      ∃ t, exec (.subnReg x y) s = .next t ∧ FrameRegs [x, vf] s t ∧ t.pc = s.pc ∧
        (x ≠ vf → (t.readReg x).toNat = ((s.readReg y).toNat + 256 - (s.readReg x).toNat) % 256) ∧
        t.readReg vf = if (s.readReg y).toNat ≥ (s.readReg x).toNat then 1 else 0

/-- 8XY6 and 8XYE shift `V[y]`, or `V[x]` under `SHIFT_SRC = vx`, by one bit into `V[x]`; `VF` is the bit moved out,
written last (41 R128, R130; the spec's decision D2). -/
def Obligations.ShiftsMoveOneBit : Prop :=
  ∀ (s : State) (x y r : RegIdx), (s.params.shiftSrc = .vy ∧ r = y ∨ s.params.shiftSrc = .vx ∧ r = x) →
    s.regWritten r = true →
    (HasWord (.shr x y) (0x8006 + 0x100 * x.val + 0x10 * y.val) ∧
      ∃ t, exec (.shr x y) s = .next t ∧ FrameRegs [x, vf] s t ∧ t.pc = s.pc ∧
        (x ≠ vf → (t.readReg x).toNat = (s.readReg r).toNat / 2) ∧
        (t.readReg vf).toNat = (s.readReg r).toNat % 2) ∧
      HasWord (.shl x y) (0x800E + 0x100 * x.val + 0x10 * y.val) ∧
      ∃ t, exec (.shl x y) s = .next t ∧ FrameRegs [x, vf] s t ∧ t.pc = s.pc ∧
        (x ≠ vf → (t.readReg x).toNat = 2 * (s.readReg r).toNat % 256) ∧
        (t.readReg vf).toNat = (s.readReg r).toNat / 128

/-- CXNN stores the value on the `rand` input ANDed with `nn`; the value is a draw, and every byte can be drawn (41
R135; the spec's decision D17; log 3). -/
def Obligations.RandomByteIsMasked : Prop :=
  ∀ (s : State) (x : RegIdx) (nn : Byte),
    HasWord (.rnd x nn) (0xC000 + 0x100 * x.val + nn.toNat) ∧
      (∃ t, exec (.rnd x nn) s = .next t ∧ FrameRegs [x] { s with inputs := t.inputs } t ∧ t.pc = s.pc ∧
        t.readReg x = s.randSample &&& nn ∧ t.inputs.moves = s.inputs.moves ∧
        t.inputs.keyPicks = s.inputs.keyPicks ∧ t.inputs.rand = s.inputs.rand.tail) ∧
      ∀ b : Byte, ∃ t, exec (.rnd x nn) { s with inputs := { s.inputs with rand := [b] } } = .next t ∧
        t.readReg x = b &&& nn

/-! ## Index register and memory operations -/

/-- ANNN: `I` is `nnn`, whatever it held (42 R150). -/
def Obligations.SetIndexLoadsTheAddress : Prop :=
  ∀ (s : State) (nnn : Addr),
    HasWord (.ldI nnn) (0xA000 + nnn.toNat) ∧
      ∃ t, exec (.ldI nnn) s = .next t ∧ FrameIndex s t ∧ t.i.toNat = nnn.toNat ∧ t.indexWritten = true

/-- FX1E adds `V[x]` to the 16 bits of `I`; FX29 points `I` at the glyph of the low nibble of `V[x]` (42 R151, R152;
the spec's decisions D15, D16, D6). -/
def Obligations.IndexAddsAndFindsGlyphs : Prop :=
  ∀ (s : State) (x : RegIdx), s.regWritten x = true →
    HasWord (.addI x) (0xF01E + 0x100 * x.val) ∧ HasWord (.ldFont x) (0xF029 + 0x100 * x.val) ∧
      (s.indexWritten = true →
        ∃ t, exec (.addI x) s = .next t ∧ FrameIndex s t ∧
          t.i.toNat = (s.i.toNat + (s.readReg x).toNat) % 65536 ∧ t.indexWritten = true) ∧
      ∃ t, exec (.ldFont x) s = .next t ∧ FrameIndex s t ∧
        t.i.toNat = s.params.fontBase.toNat + 5 * ((s.readReg x).toNat % 16) ∧ t.indexWritten = true

/-- FX33 stores the hundreds, tens and units of `V[x]` at `I`, `I + 1`, `I + 2`, each address reduced on its own, and
changes no other byte and no register (42 R153). -/
def Obligations.BcdStoresThreeDigits : Prop :=
  ∀ (s : State) (x : RegIdx), Memory.wf s.params.fontBase s.mem = true → s.regWritten x = true →
    s.indexWritten = true →
    HasWord (.ldBcd x) (0xF033 + 0x100 * x.val) ∧
      ∃ t, exec (.ldBcd x) s = .next t ∧ FrameStore (s.dataAddr 0) 3 s t ∧ SameIndex s t ∧
        (t.memRead (s.dataAddr 0)).toNat = (s.readReg x).toNat / 100 ∧
        (t.memRead (s.dataAddr 1)).toNat = (s.readReg x).toNat / 10 % 10 ∧
        (t.memRead (s.dataAddr 2)).toNat = (s.readReg x).toNat % 10

/-- FX55 stores `V[0]`..`V[x]` at `I`..`I + x`, changes no other byte and no register, and leaves `I` as `MEM_INCR_I`
says (42 R154; the spec's decision D4). -/
def Obligations.StoreRegsWritesTheBlock : Prop :=
  ∀ (s : State) (x : RegIdx), Memory.wf s.params.fontBase s.mem = true → (∀ r ≤ x, s.regWritten r = true) →
    s.indexWritten = true →
    HasWord (.storeRegs x) (0xF055 + 0x100 * x.val) ∧
      ∃ t, exec (.storeRegs x) s = .next t ∧ FrameStore (s.dataAddr 0) (x.val + 1) s t ∧
        (∀ r ≤ x, t.memRead (s.dataAddr r.val) = s.readReg r ∧ t.memWritten (s.dataAddr r.val) = true) ∧
        (s.params.memIncrI = true → t.i.toNat = (s.i.toNat + x.val + 1) % 65536) ∧
        (s.params.memIncrI = false → t.i = s.i)

/-- FX65 loads `V[0]`..`V[x]` from `I`..`I + x`, changes no other register and no byte, and leaves `I` as `MEM_INCR_I`
says (42 R155; the spec's decision D4). -/
def Obligations.LoadRegsReadsTheBlock : Prop :=
  ∀ (s : State) (x : RegIdx), s.indexWritten = true → (∀ r ≤ x, s.memWritten (s.dataAddr r.val) = true) →
    HasWord (.loadRegs x) (0xF065 + 0x100 * x.val) ∧
      ∃ t, exec (.loadRegs x) s = .next t ∧
        (∀ r ≤ x, t.readReg r = s.memRead (s.dataAddr r.val) ∧ t.regWritten r = true) ∧
        (∀ r, x < r → t.readReg r = s.readReg r ∧ t.regWritten r = s.regWritten r) ∧ SameMemory s t ∧
        (s.params.memIncrI = true → t.i.toNat = (s.i.toNat + x.val + 1) % 65536) ∧
        (s.params.memIncrI = false → t.i = s.i) ∧ SameDelay s t ∧ SameSound s t ∧ t.fb = s.fb ∧
        t.stack = s.stack ∧ t.pc = s.pc ∧ SameRun s t ∧ SameOutside s t

/-! ## Display -/

/-- 00E0 turns every pixel off and changes nothing else (43 R170, R172). -/
def Obligations.ClearTurnsEveryPixelOff : Prop :=
  ∀ s : State,
    HasWord .cls 0x00E0 ∧
      ∃ t, exec .cls s = .next t ∧ (∀ r c, t.fbPix r c = false) ∧ t.pc = s.pc ∧
        FrameRegs [] { s with fb := t.fb } t

/-- `draw_sprite` flips exactly the pixels on which the sprite has a 1 bit, with every pixel wrapped, and reports a
collision exactly when one of them was on (43 R171). -/
def Obligations.SpriteFlipsCoveredPixels : Prop :=
  ∀ (fb : Framebuffer) (x0 y0 : Byte) (rows : List Byte), rows.length ≤ 15 →
    (∀ r c, ((drawSprite fb x0 y0 rows).1.pixel r c = true ↔ (fb.pixel r c = true ↔ ¬ SpriteCovers x0 y0 rows r c))) ∧
      ((drawSprite fb x0 y0 rows).2 = true ↔ ∃ r c, fb.pixel r c = true ∧ SpriteCovers x0 y0 rows r c)

/-- DXYN draws the `n` bytes at `I` at `(V[x], V[y])`, with the coordinates read before `VF` receives the collision
flag, and changes nothing but the buffer and `VF` (43 R173; `n = 0` draws nothing, the spec's decision D19). -/
def Obligations.DrawWritesBufferAndFlag : Prop :=
  ∀ (s : State) (x y : RegIdx) (n : Fin 16), s.regWritten x = true → s.regWritten y = true →
    s.indexWritten = true → (∀ k < n.val, s.memWritten (s.dataAddr k) = true) →
    HasWord (.drw x y n) (0xD000 + 0x100 * x.val + 0x10 * y.val + n.val) ∧
      ∃ (t : State) (rows : List Byte), exec (.drw x y n) s = .next t ∧ rows.length = n.val ∧
        (∀ k, ∀ h : k < rows.length, rows[k] = s.memRead (s.dataAddr k)) ∧
        t.fb = (drawSprite s.fb (s.readReg x) (s.readReg y) rows).1 ∧
        t.readReg vf = (if (drawSprite s.fb (s.readReg x) (s.readReg y) rows).2 = true then 1 else 0) ∧
        t.pc = s.pc ∧ FrameRegs [vf] { s with fb := t.fb } t

/-! ## Timers and keys -/

/-- FX07 reads `DT`, FX15 writes `DT` and FX18 writes `ST`; none of them beeps or changes anything else (44 R188,
R189, R190). -/
def Obligations.TimerRegistersMove : Prop :=
  ∀ (s : State) (x : RegIdx),
    HasWord (.ldVxDt x) (0xF007 + 0x100 * x.val) ∧ HasWord (.ldDtVx x) (0xF015 + 0x100 * x.val) ∧
      HasWord (.ldStVx x) (0xF018 + 0x100 * x.val) ∧
      (s.delayWritten = true →
        ∃ t, exec (.ldVxDt x) s = .next t ∧ FrameRegs [x] s t ∧ t.pc = s.pc ∧ t.readReg x = s.dt) ∧
      (s.regWritten x = true →
        (∃ t, exec (.ldDtVx x) s = .next t ∧ t.dt = s.readReg x ∧ t.delayWritten = true ∧ SameRegsExcept [] s t ∧
          SameMemory s t ∧ SameIndex s t ∧ SameSound s t ∧ t.fb = s.fb ∧ t.stack = s.stack ∧ t.pc = s.pc ∧
          SameRun s t ∧ SameOutside s t) ∧
        ∃ t, exec (.ldStVx x) s = .next t ∧ t.st = s.readReg x ∧ t.soundWritten = true ∧ SameRegsExcept [] s t ∧
          SameMemory s t ∧ SameIndex s t ∧ SameDelay s t ∧ t.fb = s.fb ∧ t.stack = s.stack ∧ t.pc = s.pc ∧
          SameRun s t ∧ SameOutside s t)

/-- A timer tick counts each timer down by one, never below 0, pulses `beep` exactly when `ST` was positive, and changes
nothing else, in every run state (44 R195, R196; how long `beep` stands: log 7). Under `unwritten_faults` an unwritten
timer stays unwritten and emits no beep (10 R42; the spec's decision D7). -/
def Obligations.TimerTickCountsDown : Prop :=
  ∀ (s : State) (rest : List HostMove), s.params.wf = true → s.inputs.moves = .timerTick :: rest →
    ∃ t, step s = .next t ∧ t = { s.withMoves rest with dt := t.dt, st := t.st, beep := t.beep } ∧
      (s.delayWritten = true → t.dt.toNat = s.dt.toNat - 1) ∧ t.delayWritten = s.delayWritten ∧
      (s.soundWritten = true → t.st.toNat = s.st.toNat - 1) ∧ t.soundWritten = s.soundWritten ∧
      (t.beep = true ↔ s.soundWritten = true ∧ 0 < s.st.toNat)

/-- With no instruction between them, `k` timer ticks emit as many beeps as `ST` allows, and count both timers down by
`k`, stopping at 0 (44 R195, R196); an unwritten `ST` emits none, and an unwritten timer stays unwritten (10 R42; the
spec's decision D7). -/
def Obligations.TicksBeepUntilSoundIsZero : Prop :=
  ∀ (s : State) (k : Nat),
    (s.soundWritten = true → beepsIn k s = min k s.st.toNat ∧ (timerTicks k s).st.toNat = s.st.toNat - k) ∧
      (s.soundWritten = false → beepsIn k s = 0) ∧
      (s.delayWritten = true → (timerTicks k s).dt.toNat = s.dt.toNat - k) ∧
      (timerTicks k s).soundWritten = s.soundWritten ∧ (timerTicks k s).delayWritten = s.delayWritten

/-- FX15, then `k` timer ticks, then FX07 reads `V[x] - k`, stopping at 0 (44 R188, R189, 70 R243; vector T154). -/
def Obligations.DelayReadsBackAfterTicks : Prop :=
  ∀ (s t : State) (x y : RegIdx) (k : Nat), s.regWritten x = true → exec (.ldDtVx x) s = .next t →
    ∃ u, exec (.ldVxDt y) (timerTicks k t) = .next u ∧ (u.readReg y).toNat = (s.readReg x).toNat - k

/-- FX0A under `KEY_WAIT = level` stores a pressed key at once and stays `Ready`; with no key pressed, and always under
`edge`, it suspends the core for register `x` (44 R191; the spec's decision D13). -/
def Obligations.KeyWaitCompletesOrSuspends : Prop :=
  ∀ (s : State) (x : RegIdx), s.cpu = .ready →
    HasWord (.ldVxK x) (0xF00A + 0x100 * x.val) ∧
      (s.params.keyWait = .level → s.keys ≠ 0 →
        ∃ (t : State) (k : RegIdx), exec (.ldVxK x) s = .next t ∧ s.keys.getLsbD k.val = true ∧
          (t.readReg x).toNat = k.val ∧ t.regWritten x = true ∧ t.pc = s.pc ∧ t.status = ⟨.ok, s.status.word⟩ ∧
          t.inputs.moves = s.inputs.moves ∧ t.inputs.rand = s.inputs.rand ∧
          FrameRegs [x] { s with inputs := t.inputs, status := t.status } t) ∧
      (s.params.keyWait = .level → s.keys = 0 →
        exec (.ldVxK x) s = .next { s with cpu := .waiting x, status := ⟨.waiting, s.status.word⟩ }) ∧
      (s.params.keyWait = .edge →
        exec (.ldVxK x) s = .next { s with
          cpu := .waiting x, status := ⟨.waiting, s.status.word⟩, keyPrev := s.keys })

/-- A tick of a waiting core polls: an eligible key (pressed, and under `edge` newly pressed) is stored and the core is
`Ready`; with none, nothing changes but `Status`, `KeyPrev` under `edge` and the loader's window. `PC` does not move (44
R192; the spec's decision D13; log 4 for the choice, log 9 for the window, log 2 for the queue). -/
def Obligations.KeyPollTakesAnEligibleKey : Prop :=
  ∀ (s : State) (x : RegIdx) (seen : Word) (rest : List HostMove),
    (s.params.keyWait = .level ∧ seen = 0 ∨ s.params.keyWait = .edge ∧ seen = s.keyPrev) →
    s.params.wf = true → s.ticksThen rest → s.cpu = .waiting x →
    (s.keys &&& ~~~seen ≠ 0 →
      ∃ (t : State) (k : RegIdx), step s = .next t ∧ (s.keys &&& ~~~seen).getLsbD k.val = true ∧
        (t.readReg x).toNat = k.val ∧ t.regWritten x = true ∧ t.cpu = .ready ∧ t.status = ⟨.ok, s.status.word⟩ ∧
        t.pc = s.pc ∧ t.inputs.moves = rest ∧ t.inputs.rand = s.inputs.rand ∧
        FrameRegs [x] { s with inputs := t.inputs, status := t.status, cpu := t.cpu, loadOpen := false } t) ∧
      (s.keys &&& ~~~seen = 0 →
        step s = .next { s.withMoves rest with
          status := ⟨.waiting, s.status.word⟩
          keyPrev := if s.params.keyWait = .edge then s.keys else s.keyPrev
          loadOpen := false })

/-- Every eligible key can be the one FX0A stores: `choose_key` is a draw, at FX0A's own first step under `level` (the
pressed keys) and at every poll (the pressed ones, under `edge` the newly pressed ones) (44 R191, R192; the spec's
decision D13; log 4). -/
def Obligations.EveryEligibleKeyCanBeChosen : Prop :=
  ∀ (s : State) (x k : RegIdx), s.keys.getLsbD k.val = true →
    (s.params.keyWait = .level →
      ∃ draw t, exec (.ldVxK x) { s with inputs := { s.inputs with keyPicks := [draw] } } = .next t ∧
        (t.readReg x).toNat = k.val) ∧
      (s.params.keyWait = .level ∨ s.keyPrev.getLsbD k.val = false →
        ∃ draw, ((({ s with inputs := { s.inputs with keyPicks := [draw] } } : State).keyWaitPoll x).readReg x).toNat =
          k.val)

/-- A change of the keys changes nothing else, and a read of a pixel changes nothing (44 R197, 43 R174, 70 R240; the
spec's decision D21). -/
def Obligations.AdaptersTouchOnlyTheirPorts : Prop :=
  ∀ (s : State) (rest : List HostMove), s.params.wf = true →
    (∀ keys, s.inputs.moves = .setKeys keys :: rest →
      step s = .next { s with keys := keys, inputs := { s.inputs with moves := rest } }) ∧
      ∀ r c, s.inputs.moves = .fbRead r c :: rest →
        step s = .next { s with inputs := { s.inputs with moves := rest } }

/-! ## Rules over all instructions -/

/-- An instruction writes only the registers of the "writes" column of 10 R24. -/
def Obligations.RegistersHaveTheirWriters : Prop :=
  ∀ (i : Instr) (s t : State), exec i s = .next t → SameRegsExcept (regsWrittenBy s.params i) s t

/-- Each piece of state has its writers: memory FX33 and FX55 (20 R63), the display buffer 00E0 and DXYN (10 R37), the
stack 2NNN and 00EE (10 R34), `I` ANNN, FX1E, FX29, FX55 and FX65 (10 R25), `DT` FX15 and `ST` FX18 (10 R35), `KeyPrev`
FX0A (44 R191); the keys have none (10 R38). The model's own choices in it: `beep` keeps its level across an instruction
(log 7), no instruction writes the parameters (log 1) or the loader's window (log 9). -/
def Obligations.StateHasItsWriters : Prop :=
  ∀ (i : Instr) (s t : State), exec i s = .next t →
    ((∀ x, i ≠ .ldBcd x ∧ i ≠ .storeRegs x) → SameMemory s t) ∧
      ((∀ x y n, i ≠ .cls ∧ i ≠ .drw x y n) → t.fb = s.fb) ∧
      ((∀ a, i ≠ .ret ∧ i ≠ .call a) → t.stack = s.stack) ∧
      ((∀ a x, i ≠ .ldI a ∧ i ≠ .addI x ∧ i ≠ .ldFont x ∧ i ≠ .storeRegs x ∧ i ≠ .loadRegs x) → SameIndex s t) ∧
      ((∀ x, i ≠ .ldDtVx x) → SameDelay s t) ∧ ((∀ x, i ≠ .ldStVx x) → SameSound s t) ∧
      ((∀ x, i ≠ .ldVxK x) → t.keyPrev = s.keyPrev) ∧ t.keys = s.keys ∧ t.params = s.params ∧ t.beep = s.beep ∧
      t.loadOpen = s.loadOpen

/-- The six operations the source defines do the same under every setting of the six parameters that 00 R10 names
(`SHIFT_SRC`, `LOGIC_VF_RESET`, `MEM_INCR_I`, `JUMP_OFFSET_REG`, `STACK_CAP`, `KEY_WAIT`). -/
def Obligations.SourceOperationsIgnoreSixParameters : Prop :=
  ∀ (i : Instr) (s t : State) (p : Params), i.inMin6 = true → p.opset = s.params.opset →
    p.fontBase = s.params.fontBase → p.resetPolicy = s.params.resetPolicy →
    p.onCondition = s.params.onCondition → exec i s = .next t →
    exec i { s with params := p } = .next { t with params := p }

/-! ## The end of a run -/

/-- In a state of the end shape the core goes on executing the jump to itself: a tick changes nothing but `Status` and
the loader's window, and the state it leaves has the end shape again (70 R246; the spec's decision D30; log 19 for the
end shape under `unwritten_faults`, log 9 for the window, log 2 for the queue). -/
def Obligations.JumpToSelfGoesOn : Prop :=
  ∀ (s : State) (rest : List HostMove), s.Inv → s.ticksThen rest → s.endShape = true →
    ∃ t, step s = .next t ∧ t = { s.withMoves rest with status := ⟨.ok, s.status.word⟩, loadOpen := false } ∧
      t.endShape = true

/-! ## The output ports -/

/-- The output ports: the codes 0 to 6 of `status`, and never 7; `cond_word`, which a tick that ends with code 0, 5 or 6
leaves unchanged; `suspended`, 1 exactly when `Cpu` is `Waiting`, and then exactly when `status` is 5 in every state that
meets the invariant (60 R200, 10 R36; the spec's decisions D12, D13, D22). -/
def Obligations.OutputPortsShowTheOutcome : Prop :=
  ∀ s : State,
    (s.statusPort.toNat = 0 ↔ s.status.code = .ok) ∧
      (s.statusPort.toNat = 1 ↔ s.status.code = .reported .unimplemented) ∧
      (s.statusPort.toNat = 2 ↔ s.status.code = .reported .stackUnderflow) ∧
      (s.statusPort.toNat = 3 ↔ s.status.code = .reported .stackOverflow) ∧
      (s.statusPort.toNat = 4 ↔ s.status.code = .reported .unwrittenRead) ∧
      (s.statusPort.toNat = 5 ↔ s.status.code = .waiting) ∧ (s.statusPort.toNat = 6 ↔ s.status.code = .halted) ∧
      s.statusPort.toNat ≠ 7 ∧ s.condWordPort = s.status.word ∧
      (s.suspendedPort = true ↔ ∃ x, s.cpu = .waiting x) ∧
      (s.Inv → (s.suspendedPort = true ↔ s.statusPort.toNat = 5)) ∧
      ∀ (t : State) (rest : List HostMove), s.ticksThen rest → step s = .next t →
        t.statusPort.toNat ∈ [0, 5, 6] → t.condWordPort = s.condWordPort
end

