-- ==== Sys2Proof/Laws/Decode.lean ====
section
/-! SUPPORT. The decoder and the encoder: the fields of an encoded word, and words and fields as numbers. -/

namespace Sys2Proof

theorem extract_high {n m : Nat} (a : BitVec n) (b : BitVec m) : (a ++ b).extractLsb' m n = a := by
  ext i hi
  simp [BitVec.getLsbD_append, BitVec.getLsbD_eq_getElem hi]

theorem extract_low {n m k : Nat} (a : BitVec n) (b : BitVec m) (l : Nat) (h : l + k ≤ m) :
    (a ++ b).extractLsb' l k = b.extractLsb' l k := by
  ext i hi
  simp [BitVec.getLsbD_append, show l + i < m by omega]

theorem extract_all {n : Nat} (a : BitVec n) : a.extractLsb' 0 n = a := by
  ext i hi; simp

theorem eq_ofNat_of_toNat {n k : Nat} {b : BitVec n} (h : b.toNat = k) : b = BitVec.ofNat n k := by
  rw [← h, BitVec.ofNat_toNat, BitVec.setWidth_eq]

theorem toNat_append {n m : Nat} (a : BitVec n) (b : BitVec m) : (a ++ b).toNat = a.toNat * 2^m + b.toNat := by
  rw [BitVec.toNat_append, Nat.shiftLeft_eq, Nat.mul_comm, ← Nat.two_pow_add_eq_or_of_lt b.isLt]

@[simp] theorem fieldItype_encodeNNN (t : BitVec 4) (a : Addr) : fieldItype (encodeNNN t a) = t := extract_high t a

@[simp] theorem fieldNNN_encodeNNN (t : BitVec 4) (a : Addr) : fieldNNN (encodeNNN t a) = a := by
  rw [fieldNNN, encodeNNN, extract_low _ _ _ (by decide), extract_all]

@[simp] theorem fieldItype_encodeXNN (t : BitVec 4) (x : RegIdx) (nn : Byte) : fieldItype (encodeXNN t x nn) = t :=
  extract_high t _

@[simp] theorem fieldX_encodeXNN (t : BitVec 4) (x : RegIdx) (nn : Byte) : fieldX (encodeXNN t x nn) = x := by
  rw [fieldX, encodeXNN, extract_low _ _ _ (by decide), extract_high]

@[simp] theorem fieldNN_encodeXNN (t : BitVec 4) (x : RegIdx) (nn : Byte) : fieldNN (encodeXNN t x nn) = nn := by
  rw [fieldNN, encodeXNN, extract_low _ _ _ (by decide), extract_low _ _ _ (by decide), extract_all]

@[simp] theorem fieldItype_encodeXYN (t : BitVec 4) (x y : RegIdx) (n : BitVec 4) :
    fieldItype (encodeXYN t x y n) = t :=
  extract_high t _

@[simp] theorem fieldX_encodeXYN (t : BitVec 4) (x y : RegIdx) (n : BitVec 4) : fieldX (encodeXYN t x y n) = x := by
  rw [fieldX, encodeXYN, extract_low _ _ _ (by decide)]
  exact congrArg BitVec.toFin (extract_high _ _)

@[simp] theorem fieldY_encodeXYN (t : BitVec 4) (x y : RegIdx) (n : BitVec 4) : fieldY (encodeXYN t x y n) = y := by
  rw [fieldY, encodeXYN, extract_low _ _ _ (by decide), extract_low _ _ _ (by decide)]
  exact congrArg BitVec.toFin (extract_high _ _)

@[simp] theorem fieldN_encodeXYN (t : BitVec 4) (x y : RegIdx) (n : BitVec 4) : fieldN (encodeXYN t x y n) = n := by
  rw [fieldN, encodeXYN, extract_low _ _ _ (by decide), extract_low _ _ _ (by decide), extract_low _ _ _ (by decide), extract_all]

theorem encodeNNN_toNat (t : BitVec 4) (a : Addr) : (encodeNNN t a).toNat = 4096 * t.toNat + a.toNat := by
  rw [Nat.mul_comm]; exact toNat_append t a

theorem encodeXNN_toNat (t : BitVec 4) (x : RegIdx) (nn : Byte) :
    (encodeXNN t x nn).toNat = 4096 * t.toNat + 256 * x.val + nn.toNat := by
  have h1 : (encodeXNN t x nn).toNat = _ := toNat_append t ((BitVec.ofFin x : BitVec 4) ++ nn)
  rw [h1, toNat_append]
  have : (BitVec.ofFin x : BitVec 4).toNat = x.val := rfl
  omega

theorem encodeXYN_toNat (t : BitVec 4) (x y : RegIdx) (n : BitVec 4) :
    (encodeXYN t x y n).toNat = 4096 * t.toNat + 256 * x.val + 16 * y.val + n.toNat := by
  have h1 : (encodeXYN t x y n).toNat = _ := toNat_append t ((BitVec.ofFin x : BitVec 4) ++ ((BitVec.ofFin y : BitVec 4) ++ n))
  rw [h1, toNat_append, toNat_append]
  have : (BitVec.ofFin x : BitVec 4).toNat = x.val := rfl
  have : (BitVec.ofFin y : BitVec 4).toNat = y.val := rfl
  omega

theorem wordOfBytes_toNat (hi lo : Byte) : (wordOfBytes hi lo).toNat = 256 * hi.toNat + lo.toNat := by
  rw [Nat.mul_comm]; exact toNat_append hi lo

theorem fieldItype_toNat (w : Word) : (fieldItype w).toNat = w.toNat / 4096 := by
  have := w.isLt
  simp only [fieldItype, BitVec.extractLsb'_toNat, Nat.shiftRight_eq_div_pow]
  omega

theorem fieldX_val (w : Word) : (fieldX w).val = w.toNat / 256 % 16 := by
  show (w.extractLsb' 8 4).toNat = _
  rw [BitVec.extractLsb'_toNat, Nat.shiftRight_eq_div_pow]

theorem fieldY_val (w : Word) : (fieldY w).val = w.toNat / 16 % 16 := by
  show (w.extractLsb' 4 4).toNat = _
  rw [BitVec.extractLsb'_toNat, Nat.shiftRight_eq_div_pow]

theorem fieldN_toNat (w : Word) : (fieldN w).toNat = w.toNat % 16 := by
  simp [fieldN]

theorem fieldNN_toNat (w : Word) : (fieldNN w).toNat = w.toNat % 256 := by
  simp [fieldNN]

theorem fieldNNN_toNat (w : Word) : (fieldNNN w).toNat = w.toNat % 4096 := by
  simp [fieldNNN]

theorem highByte_toNat (w : Word) : (highByte w).toNat = w.toNat / 256 := by
  have := w.isLt
  simp only [highByte, BitVec.extractLsb'_toNat, Nat.shiftRight_eq_div_pow]
  omega

theorem lowByte_toNat (w : Word) : (lowByte w).toNat = w.toNat % 256 := by
  simp [lowByte]

theorem wordOfBytes_high_low (w : Word) : wordOfBytes (highByte w) (lowByte w) = w := by
  apply BitVec.eq_of_toNat_eq
  rw [wordOfBytes_toNat, highByte_toNat, lowByte_toNat]
  omega

theorem encodeNNN_fields (w : Word) : encodeNNN (fieldItype w) (fieldNNN w) = w := by
  apply BitVec.eq_of_toNat_eq
  rw [encodeNNN_toNat, fieldItype_toNat, fieldNNN_toNat]
  omega

theorem encodeXNN_fields (w : Word) : encodeXNN (fieldItype w) (fieldX w) (fieldNN w) = w := by
  apply BitVec.eq_of_toNat_eq
  rw [encodeXNN_toNat, fieldItype_toNat, fieldX_val, fieldNN_toNat]
  omega

theorem encodeXYN_fields (w : Word) : encodeXYN (fieldItype w) (fieldX w) (fieldY w) (fieldN w) = w := by
  apply BitVec.eq_of_toNat_eq
  rw [encodeXYN_toNat, fieldItype_toNat, fieldX_val, fieldY_val, fieldN_toNat]
  omega

end Sys2Proof
end

