-- ==== Sys2Proof/Laws/Display.lean ====
section
/-! SUPPORT. The framebuffer: what a pixel is after a flip and after a clear. -/

namespace Sys2Proof.Machine

@[simp] theorem Framebuffer.pixel_blank (r : Fin 32) (c : Fin 64) : Framebuffer.blank.pixel r c = false := by
  simp [Framebuffer.pixel, Framebuffer.blank]

/-- A flip inverts its pixel and leaves every other pixel alone. -/
theorem Framebuffer.pixel_flip (fb : Framebuffer) (r r' : Fin 32) (c c' : Fin 64) :
    (fb.flip r c).pixel r' c' = if r = r' ∧ c = c' then !fb.pixel r c else fb.pixel r' c' := by
  simp only [Framebuffer.pixel, Framebuffer.flip, Vector.getElem_set, Fin.val_inj]
  by_cases hr : r = r'
  · subst hr
    simp only [if_true, Vector.getElem_set, Fin.val_inj, true_and]
  · simp [hr]

/-- Everything one pixel of a sprite can do. -/
theorem drawPixel_cases (x0 y0 : Byte) (r : Nat) (bits : Byte) (acc : Framebuffer × Bool) (c : Nat) :
    (bits.getLsbD (7 - c) = true ∧
        drawPixel x0 y0 r bits acc c =
          (acc.1.flip (spriteRow y0 r) (spriteCol x0 c), acc.2 || acc.1.pixel (spriteRow y0 r) (spriteCol x0 c))) ∨
      (bits.getLsbD (7 - c) = false ∧ drawPixel x0 y0 r bits acc c = acc) := by
  unfold drawPixel
  cases h : bits.getLsbD (7 - c)
  · exact .inr ⟨rfl, by simp⟩
  · exact .inl ⟨rfl, by simp⟩

@[simp] theorem spriteRow_val (y0 : Byte) (r : Nat) : (spriteRow y0 r).val = (y0.toNat + r) % 32 := rfl

@[simp] theorem spriteCol_val (x0 : Byte) (c : Nat) : (spriteCol x0 c).val = (x0.toNat + c) % 64 := rfl

/-- The eight columns of a sprite land on eight different columns (43 R171). -/
theorem spriteCol_injective {x0 : Byte} {c d : Nat} (hc : c < 8) (hd : d < 8) (h : spriteCol x0 c = spriteCol x0 d) :
    c = d := by
  have := congrArg Fin.val h
  simp only [spriteCol_val] at this
  omega

/-- The rows of a sprite of at most 15 rows land on different rows (43 R171). -/
theorem spriteRow_injective {y0 : Byte} {r q : Nat} (hr : r < 15) (hq : q < 15) (h : spriteRow y0 r = spriteRow y0 q) :
    r = q := by
  have := congrArg Fin.val h
  simp only [spriteRow_val] at this
  omega

end Sys2Proof.Machine
end

