-- ==== Sys2Proof/Laws/State.lean ====
section
/-! SUPPORT. One lemma for each field and each update of the state: what the update leaves in that field. -/

namespace Sys2Proof.Machine

/-! ## setPc -/

@[simp] theorem State.setPc_params (s : State) (a : Nat) : (s.setPc a).params = s.params := rfl
@[simp] theorem State.setPc_mem (s : State) (a : Nat) : (s.setPc a).mem = s.mem := rfl
@[simp] theorem State.setPc_v (s : State) (a : Nat) : (s.setPc a).v = s.v := rfl
@[simp] theorem State.setPc_i (s : State) (a : Nat) : (s.setPc a).i = s.i := rfl
@[simp] theorem State.setPc_stack (s : State) (a : Nat) : (s.setPc a).stack = s.stack := rfl
@[simp] theorem State.setPc_fb (s : State) (a : Nat) : (s.setPc a).fb = s.fb := rfl
@[simp] theorem State.setPc_dt (s : State) (a : Nat) : (s.setPc a).dt = s.dt := rfl
@[simp] theorem State.setPc_st (s : State) (a : Nat) : (s.setPc a).st = s.st := rfl
@[simp] theorem State.setPc_keys (s : State) (a : Nat) : (s.setPc a).keys = s.keys := rfl
@[simp] theorem State.setPc_keyPrev (s : State) (a : Nat) : (s.setPc a).keyPrev = s.keyPrev := rfl
@[simp] theorem State.setPc_cpu (s : State) (a : Nat) : (s.setPc a).cpu = s.cpu := rfl
@[simp] theorem State.setPc_status (s : State) (a : Nat) : (s.setPc a).status = s.status := rfl
@[simp] theorem State.setPc_beep (s : State) (a : Nat) : (s.setPc a).beep = s.beep := rfl
@[simp] theorem State.setPc_written (s : State) (a : Nat) : (s.setPc a).written = s.written := rfl
@[simp] theorem State.setPc_loadOpen (s : State) (a : Nat) : (s.setPc a).loadOpen = s.loadOpen := rfl
@[simp] theorem State.setPc_inputs (s : State) (a : Nat) : (s.setPc a).inputs = s.inputs := rfl

/-! ## skip -/

@[simp] theorem State.skip_params (s : State) : (s.skip).params = s.params := rfl
@[simp] theorem State.skip_mem (s : State) : (s.skip).mem = s.mem := rfl
@[simp] theorem State.skip_v (s : State) : (s.skip).v = s.v := rfl
@[simp] theorem State.skip_i (s : State) : (s.skip).i = s.i := rfl
@[simp] theorem State.skip_stack (s : State) : (s.skip).stack = s.stack := rfl
@[simp] theorem State.skip_fb (s : State) : (s.skip).fb = s.fb := rfl
@[simp] theorem State.skip_dt (s : State) : (s.skip).dt = s.dt := rfl
@[simp] theorem State.skip_st (s : State) : (s.skip).st = s.st := rfl
@[simp] theorem State.skip_keys (s : State) : (s.skip).keys = s.keys := rfl
@[simp] theorem State.skip_keyPrev (s : State) : (s.skip).keyPrev = s.keyPrev := rfl
@[simp] theorem State.skip_cpu (s : State) : (s.skip).cpu = s.cpu := rfl
@[simp] theorem State.skip_status (s : State) : (s.skip).status = s.status := rfl
@[simp] theorem State.skip_beep (s : State) : (s.skip).beep = s.beep := rfl
@[simp] theorem State.skip_written (s : State) : (s.skip).written = s.written := rfl
@[simp] theorem State.skip_loadOpen (s : State) : (s.skip).loadOpen = s.loadOpen := rfl
@[simp] theorem State.skip_inputs (s : State) : (s.skip).inputs = s.inputs := rfl

/-! ## push -/

@[simp] theorem State.push_params (s : State) (a : Word) : (s.push a).params = s.params := rfl
@[simp] theorem State.push_mem (s : State) (a : Word) : (s.push a).mem = s.mem := rfl
@[simp] theorem State.push_v (s : State) (a : Word) : (s.push a).v = s.v := rfl
@[simp] theorem State.push_i (s : State) (a : Word) : (s.push a).i = s.i := rfl
@[simp] theorem State.push_pc (s : State) (a : Word) : (s.push a).pc = s.pc := rfl
@[simp] theorem State.push_fb (s : State) (a : Word) : (s.push a).fb = s.fb := rfl
@[simp] theorem State.push_dt (s : State) (a : Word) : (s.push a).dt = s.dt := rfl
@[simp] theorem State.push_st (s : State) (a : Word) : (s.push a).st = s.st := rfl
@[simp] theorem State.push_keys (s : State) (a : Word) : (s.push a).keys = s.keys := rfl
@[simp] theorem State.push_keyPrev (s : State) (a : Word) : (s.push a).keyPrev = s.keyPrev := rfl
@[simp] theorem State.push_cpu (s : State) (a : Word) : (s.push a).cpu = s.cpu := rfl
@[simp] theorem State.push_status (s : State) (a : Word) : (s.push a).status = s.status := rfl
@[simp] theorem State.push_beep (s : State) (a : Word) : (s.push a).beep = s.beep := rfl
@[simp] theorem State.push_written (s : State) (a : Word) : (s.push a).written = s.written := rfl
@[simp] theorem State.push_loadOpen (s : State) (a : Word) : (s.push a).loadOpen = s.loadOpen := rfl
@[simp] theorem State.push_inputs (s : State) (a : Word) : (s.push a).inputs = s.inputs := rfl

/-! ## raise -/

@[simp] theorem State.raise_params (s : State) (c : Condition) (w : Word) : (s.raise c w).params = s.params := rfl
@[simp] theorem State.raise_mem (s : State) (c : Condition) (w : Word) : (s.raise c w).mem = s.mem := rfl
@[simp] theorem State.raise_v (s : State) (c : Condition) (w : Word) : (s.raise c w).v = s.v := rfl
@[simp] theorem State.raise_i (s : State) (c : Condition) (w : Word) : (s.raise c w).i = s.i := rfl
@[simp] theorem State.raise_pc (s : State) (c : Condition) (w : Word) : (s.raise c w).pc = s.pc := rfl
@[simp] theorem State.raise_stack (s : State) (c : Condition) (w : Word) : (s.raise c w).stack = s.stack := rfl
@[simp] theorem State.raise_fb (s : State) (c : Condition) (w : Word) : (s.raise c w).fb = s.fb := rfl
@[simp] theorem State.raise_dt (s : State) (c : Condition) (w : Word) : (s.raise c w).dt = s.dt := rfl
@[simp] theorem State.raise_st (s : State) (c : Condition) (w : Word) : (s.raise c w).st = s.st := rfl
@[simp] theorem State.raise_keys (s : State) (c : Condition) (w : Word) : (s.raise c w).keys = s.keys := rfl
@[simp] theorem State.raise_keyPrev (s : State) (c : Condition) (w : Word) : (s.raise c w).keyPrev = s.keyPrev := rfl
@[simp] theorem State.raise_beep (s : State) (c : Condition) (w : Word) : (s.raise c w).beep = s.beep := rfl
@[simp] theorem State.raise_written (s : State) (c : Condition) (w : Word) : (s.raise c w).written = s.written := rfl
@[simp] theorem State.raise_loadOpen (s : State) (c : Condition) (w : Word) : (s.raise c w).loadOpen = s.loadOpen := rfl
@[simp] theorem State.raise_inputs (s : State) (c : Condition) (w : Word) : (s.raise c w).inputs = s.inputs := rfl

/-! ## reportHalted -/

@[simp] theorem State.reportHalted_params (s : State) : (s.reportHalted).params = s.params := rfl
@[simp] theorem State.reportHalted_mem (s : State) : (s.reportHalted).mem = s.mem := rfl
@[simp] theorem State.reportHalted_v (s : State) : (s.reportHalted).v = s.v := rfl
@[simp] theorem State.reportHalted_i (s : State) : (s.reportHalted).i = s.i := rfl
@[simp] theorem State.reportHalted_pc (s : State) : (s.reportHalted).pc = s.pc := rfl
@[simp] theorem State.reportHalted_stack (s : State) : (s.reportHalted).stack = s.stack := rfl
@[simp] theorem State.reportHalted_fb (s : State) : (s.reportHalted).fb = s.fb := rfl
@[simp] theorem State.reportHalted_dt (s : State) : (s.reportHalted).dt = s.dt := rfl
@[simp] theorem State.reportHalted_st (s : State) : (s.reportHalted).st = s.st := rfl
@[simp] theorem State.reportHalted_keys (s : State) : (s.reportHalted).keys = s.keys := rfl
@[simp] theorem State.reportHalted_keyPrev (s : State) : (s.reportHalted).keyPrev = s.keyPrev := rfl
@[simp] theorem State.reportHalted_cpu (s : State) : (s.reportHalted).cpu = s.cpu := rfl
@[simp] theorem State.reportHalted_beep (s : State) : (s.reportHalted).beep = s.beep := rfl
@[simp] theorem State.reportHalted_written (s : State) : (s.reportHalted).written = s.written := rfl
@[simp] theorem State.reportHalted_loadOpen (s : State) : (s.reportHalted).loadOpen = s.loadOpen := rfl
@[simp] theorem State.reportHalted_inputs (s : State) : (s.reportHalted).inputs = s.inputs := rfl

/-! ## reportOk -/

@[simp] theorem State.reportOk_params (s : State) : (s.reportOk).params = s.params := rfl
@[simp] theorem State.reportOk_mem (s : State) : (s.reportOk).mem = s.mem := rfl
@[simp] theorem State.reportOk_v (s : State) : (s.reportOk).v = s.v := rfl
@[simp] theorem State.reportOk_i (s : State) : (s.reportOk).i = s.i := rfl
@[simp] theorem State.reportOk_pc (s : State) : (s.reportOk).pc = s.pc := rfl
@[simp] theorem State.reportOk_stack (s : State) : (s.reportOk).stack = s.stack := rfl
@[simp] theorem State.reportOk_fb (s : State) : (s.reportOk).fb = s.fb := rfl
@[simp] theorem State.reportOk_dt (s : State) : (s.reportOk).dt = s.dt := rfl
@[simp] theorem State.reportOk_st (s : State) : (s.reportOk).st = s.st := rfl
@[simp] theorem State.reportOk_keys (s : State) : (s.reportOk).keys = s.keys := rfl
@[simp] theorem State.reportOk_keyPrev (s : State) : (s.reportOk).keyPrev = s.keyPrev := rfl
@[simp] theorem State.reportOk_cpu (s : State) : (s.reportOk).cpu = s.cpu := rfl
@[simp] theorem State.reportOk_beep (s : State) : (s.reportOk).beep = s.beep := rfl
@[simp] theorem State.reportOk_written (s : State) : (s.reportOk).written = s.written := rfl
@[simp] theorem State.reportOk_loadOpen (s : State) : (s.reportOk).loadOpen = s.loadOpen := rfl
@[simp] theorem State.reportOk_inputs (s : State) : (s.reportOk).inputs = s.inputs := rfl

/-! ## reportWaiting -/

@[simp] theorem State.reportWaiting_params (s : State) : (s.reportWaiting).params = s.params := rfl
@[simp] theorem State.reportWaiting_mem (s : State) : (s.reportWaiting).mem = s.mem := rfl
@[simp] theorem State.reportWaiting_v (s : State) : (s.reportWaiting).v = s.v := rfl
@[simp] theorem State.reportWaiting_i (s : State) : (s.reportWaiting).i = s.i := rfl
@[simp] theorem State.reportWaiting_pc (s : State) : (s.reportWaiting).pc = s.pc := rfl
@[simp] theorem State.reportWaiting_stack (s : State) : (s.reportWaiting).stack = s.stack := rfl
@[simp] theorem State.reportWaiting_fb (s : State) : (s.reportWaiting).fb = s.fb := rfl
@[simp] theorem State.reportWaiting_dt (s : State) : (s.reportWaiting).dt = s.dt := rfl
@[simp] theorem State.reportWaiting_st (s : State) : (s.reportWaiting).st = s.st := rfl
@[simp] theorem State.reportWaiting_keys (s : State) : (s.reportWaiting).keys = s.keys := rfl
@[simp] theorem State.reportWaiting_keyPrev (s : State) : (s.reportWaiting).keyPrev = s.keyPrev := rfl
@[simp] theorem State.reportWaiting_cpu (s : State) : (s.reportWaiting).cpu = s.cpu := rfl
@[simp] theorem State.reportWaiting_beep (s : State) : (s.reportWaiting).beep = s.beep := rfl
@[simp] theorem State.reportWaiting_written (s : State) : (s.reportWaiting).written = s.written := rfl
@[simp] theorem State.reportWaiting_loadOpen (s : State) : (s.reportWaiting).loadOpen = s.loadOpen := rfl
@[simp] theorem State.reportWaiting_inputs (s : State) : (s.reportWaiting).inputs = s.inputs := rfl

/-! ## closeLoad -/

@[simp] theorem State.closeLoad_params (s : State) : (s.closeLoad).params = s.params := rfl
@[simp] theorem State.closeLoad_mem (s : State) : (s.closeLoad).mem = s.mem := rfl
@[simp] theorem State.closeLoad_v (s : State) : (s.closeLoad).v = s.v := rfl
@[simp] theorem State.closeLoad_i (s : State) : (s.closeLoad).i = s.i := rfl
@[simp] theorem State.closeLoad_pc (s : State) : (s.closeLoad).pc = s.pc := rfl
@[simp] theorem State.closeLoad_stack (s : State) : (s.closeLoad).stack = s.stack := rfl
@[simp] theorem State.closeLoad_fb (s : State) : (s.closeLoad).fb = s.fb := rfl
@[simp] theorem State.closeLoad_dt (s : State) : (s.closeLoad).dt = s.dt := rfl
@[simp] theorem State.closeLoad_st (s : State) : (s.closeLoad).st = s.st := rfl
@[simp] theorem State.closeLoad_keys (s : State) : (s.closeLoad).keys = s.keys := rfl
@[simp] theorem State.closeLoad_keyPrev (s : State) : (s.closeLoad).keyPrev = s.keyPrev := rfl
@[simp] theorem State.closeLoad_cpu (s : State) : (s.closeLoad).cpu = s.cpu := rfl
@[simp] theorem State.closeLoad_status (s : State) : (s.closeLoad).status = s.status := rfl
@[simp] theorem State.closeLoad_beep (s : State) : (s.closeLoad).beep = s.beep := rfl
@[simp] theorem State.closeLoad_written (s : State) : (s.closeLoad).written = s.written := rfl
@[simp] theorem State.closeLoad_inputs (s : State) : (s.closeLoad).inputs = s.inputs := rfl

/-! ## afterFetch -/

@[simp] theorem State.afterFetch_params (s : State) : (s.afterFetch).params = s.params := rfl
@[simp] theorem State.afterFetch_mem (s : State) : (s.afterFetch).mem = s.mem := rfl
@[simp] theorem State.afterFetch_v (s : State) : (s.afterFetch).v = s.v := rfl
@[simp] theorem State.afterFetch_i (s : State) : (s.afterFetch).i = s.i := rfl
@[simp] theorem State.afterFetch_stack (s : State) : (s.afterFetch).stack = s.stack := rfl
@[simp] theorem State.afterFetch_fb (s : State) : (s.afterFetch).fb = s.fb := rfl
@[simp] theorem State.afterFetch_dt (s : State) : (s.afterFetch).dt = s.dt := rfl
@[simp] theorem State.afterFetch_st (s : State) : (s.afterFetch).st = s.st := rfl
@[simp] theorem State.afterFetch_keys (s : State) : (s.afterFetch).keys = s.keys := rfl
@[simp] theorem State.afterFetch_keyPrev (s : State) : (s.afterFetch).keyPrev = s.keyPrev := rfl
@[simp] theorem State.afterFetch_cpu (s : State) : (s.afterFetch).cpu = s.cpu := rfl
@[simp] theorem State.afterFetch_beep (s : State) : (s.afterFetch).beep = s.beep := rfl
@[simp] theorem State.afterFetch_written (s : State) : (s.afterFetch).written = s.written := rfl
@[simp] theorem State.afterFetch_loadOpen (s : State) : (s.afterFetch).loadOpen = s.loadOpen := rfl
@[simp] theorem State.afterFetch_inputs (s : State) : (s.afterFetch).inputs = s.inputs := rfl

/-! ## clearDisplay -/

@[simp] theorem State.clearDisplay_params (s : State) : (s.clearDisplay).params = s.params := rfl
@[simp] theorem State.clearDisplay_mem (s : State) : (s.clearDisplay).mem = s.mem := rfl
@[simp] theorem State.clearDisplay_v (s : State) : (s.clearDisplay).v = s.v := rfl
@[simp] theorem State.clearDisplay_i (s : State) : (s.clearDisplay).i = s.i := rfl
@[simp] theorem State.clearDisplay_pc (s : State) : (s.clearDisplay).pc = s.pc := rfl
@[simp] theorem State.clearDisplay_stack (s : State) : (s.clearDisplay).stack = s.stack := rfl
@[simp] theorem State.clearDisplay_dt (s : State) : (s.clearDisplay).dt = s.dt := rfl
@[simp] theorem State.clearDisplay_st (s : State) : (s.clearDisplay).st = s.st := rfl
@[simp] theorem State.clearDisplay_keys (s : State) : (s.clearDisplay).keys = s.keys := rfl
@[simp] theorem State.clearDisplay_keyPrev (s : State) : (s.clearDisplay).keyPrev = s.keyPrev := rfl
@[simp] theorem State.clearDisplay_cpu (s : State) : (s.clearDisplay).cpu = s.cpu := rfl
@[simp] theorem State.clearDisplay_status (s : State) : (s.clearDisplay).status = s.status := rfl
@[simp] theorem State.clearDisplay_beep (s : State) : (s.clearDisplay).beep = s.beep := rfl
@[simp] theorem State.clearDisplay_written (s : State) : (s.clearDisplay).written = s.written := rfl
@[simp] theorem State.clearDisplay_loadOpen (s : State) : (s.clearDisplay).loadOpen = s.loadOpen := rfl
@[simp] theorem State.clearDisplay_inputs (s : State) : (s.clearDisplay).inputs = s.inputs := rfl

/-! ## writeReg -/

@[simp] theorem State.writeReg_params (s : State) (r : RegIdx) (x : Byte) : (s.writeReg r x).params = s.params := rfl
@[simp] theorem State.writeReg_mem (s : State) (r : RegIdx) (x : Byte) : (s.writeReg r x).mem = s.mem := rfl
@[simp] theorem State.writeReg_i (s : State) (r : RegIdx) (x : Byte) : (s.writeReg r x).i = s.i := rfl
@[simp] theorem State.writeReg_pc (s : State) (r : RegIdx) (x : Byte) : (s.writeReg r x).pc = s.pc := rfl
@[simp] theorem State.writeReg_stack (s : State) (r : RegIdx) (x : Byte) : (s.writeReg r x).stack = s.stack := rfl
@[simp] theorem State.writeReg_fb (s : State) (r : RegIdx) (x : Byte) : (s.writeReg r x).fb = s.fb := rfl
@[simp] theorem State.writeReg_dt (s : State) (r : RegIdx) (x : Byte) : (s.writeReg r x).dt = s.dt := rfl
@[simp] theorem State.writeReg_st (s : State) (r : RegIdx) (x : Byte) : (s.writeReg r x).st = s.st := rfl
@[simp] theorem State.writeReg_keys (s : State) (r : RegIdx) (x : Byte) : (s.writeReg r x).keys = s.keys := rfl
@[simp] theorem State.writeReg_keyPrev (s : State) (r : RegIdx) (x : Byte) : (s.writeReg r x).keyPrev = s.keyPrev := rfl
@[simp] theorem State.writeReg_cpu (s : State) (r : RegIdx) (x : Byte) : (s.writeReg r x).cpu = s.cpu := rfl
@[simp] theorem State.writeReg_status (s : State) (r : RegIdx) (x : Byte) : (s.writeReg r x).status = s.status := rfl
@[simp] theorem State.writeReg_beep (s : State) (r : RegIdx) (x : Byte) : (s.writeReg r x).beep = s.beep := rfl
@[simp] theorem State.writeReg_loadOpen (s : State) (r : RegIdx) (x : Byte) : (s.writeReg r x).loadOpen = s.loadOpen := rfl
@[simp] theorem State.writeReg_inputs (s : State) (r : RegIdx) (x : Byte) : (s.writeReg r x).inputs = s.inputs := rfl

/-! ## writeIndex -/

@[simp] theorem State.writeIndex_params (s : State) (x : Word) : (s.writeIndex x).params = s.params := rfl
@[simp] theorem State.writeIndex_mem (s : State) (x : Word) : (s.writeIndex x).mem = s.mem := rfl
@[simp] theorem State.writeIndex_v (s : State) (x : Word) : (s.writeIndex x).v = s.v := rfl
@[simp] theorem State.writeIndex_pc (s : State) (x : Word) : (s.writeIndex x).pc = s.pc := rfl
@[simp] theorem State.writeIndex_stack (s : State) (x : Word) : (s.writeIndex x).stack = s.stack := rfl
@[simp] theorem State.writeIndex_fb (s : State) (x : Word) : (s.writeIndex x).fb = s.fb := rfl
@[simp] theorem State.writeIndex_dt (s : State) (x : Word) : (s.writeIndex x).dt = s.dt := rfl
@[simp] theorem State.writeIndex_st (s : State) (x : Word) : (s.writeIndex x).st = s.st := rfl
@[simp] theorem State.writeIndex_keys (s : State) (x : Word) : (s.writeIndex x).keys = s.keys := rfl
@[simp] theorem State.writeIndex_keyPrev (s : State) (x : Word) : (s.writeIndex x).keyPrev = s.keyPrev := rfl
@[simp] theorem State.writeIndex_cpu (s : State) (x : Word) : (s.writeIndex x).cpu = s.cpu := rfl
@[simp] theorem State.writeIndex_status (s : State) (x : Word) : (s.writeIndex x).status = s.status := rfl
@[simp] theorem State.writeIndex_beep (s : State) (x : Word) : (s.writeIndex x).beep = s.beep := rfl
@[simp] theorem State.writeIndex_loadOpen (s : State) (x : Word) : (s.writeIndex x).loadOpen = s.loadOpen := rfl
@[simp] theorem State.writeIndex_inputs (s : State) (x : Word) : (s.writeIndex x).inputs = s.inputs := rfl

/-! ## writeDelay -/

@[simp] theorem State.writeDelay_params (s : State) (x : Byte) : (s.writeDelay x).params = s.params := rfl
@[simp] theorem State.writeDelay_mem (s : State) (x : Byte) : (s.writeDelay x).mem = s.mem := rfl
@[simp] theorem State.writeDelay_v (s : State) (x : Byte) : (s.writeDelay x).v = s.v := rfl
@[simp] theorem State.writeDelay_i (s : State) (x : Byte) : (s.writeDelay x).i = s.i := rfl
@[simp] theorem State.writeDelay_pc (s : State) (x : Byte) : (s.writeDelay x).pc = s.pc := rfl
@[simp] theorem State.writeDelay_stack (s : State) (x : Byte) : (s.writeDelay x).stack = s.stack := rfl
@[simp] theorem State.writeDelay_fb (s : State) (x : Byte) : (s.writeDelay x).fb = s.fb := rfl
@[simp] theorem State.writeDelay_st (s : State) (x : Byte) : (s.writeDelay x).st = s.st := rfl
@[simp] theorem State.writeDelay_keys (s : State) (x : Byte) : (s.writeDelay x).keys = s.keys := rfl
@[simp] theorem State.writeDelay_keyPrev (s : State) (x : Byte) : (s.writeDelay x).keyPrev = s.keyPrev := rfl
@[simp] theorem State.writeDelay_cpu (s : State) (x : Byte) : (s.writeDelay x).cpu = s.cpu := rfl
@[simp] theorem State.writeDelay_status (s : State) (x : Byte) : (s.writeDelay x).status = s.status := rfl
@[simp] theorem State.writeDelay_beep (s : State) (x : Byte) : (s.writeDelay x).beep = s.beep := rfl
@[simp] theorem State.writeDelay_loadOpen (s : State) (x : Byte) : (s.writeDelay x).loadOpen = s.loadOpen := rfl
@[simp] theorem State.writeDelay_inputs (s : State) (x : Byte) : (s.writeDelay x).inputs = s.inputs := rfl

/-! ## writeSound -/

@[simp] theorem State.writeSound_params (s : State) (x : Byte) : (s.writeSound x).params = s.params := rfl
@[simp] theorem State.writeSound_mem (s : State) (x : Byte) : (s.writeSound x).mem = s.mem := rfl
@[simp] theorem State.writeSound_v (s : State) (x : Byte) : (s.writeSound x).v = s.v := rfl
@[simp] theorem State.writeSound_i (s : State) (x : Byte) : (s.writeSound x).i = s.i := rfl
@[simp] theorem State.writeSound_pc (s : State) (x : Byte) : (s.writeSound x).pc = s.pc := rfl
@[simp] theorem State.writeSound_stack (s : State) (x : Byte) : (s.writeSound x).stack = s.stack := rfl
@[simp] theorem State.writeSound_fb (s : State) (x : Byte) : (s.writeSound x).fb = s.fb := rfl
@[simp] theorem State.writeSound_dt (s : State) (x : Byte) : (s.writeSound x).dt = s.dt := rfl
@[simp] theorem State.writeSound_keys (s : State) (x : Byte) : (s.writeSound x).keys = s.keys := rfl
@[simp] theorem State.writeSound_keyPrev (s : State) (x : Byte) : (s.writeSound x).keyPrev = s.keyPrev := rfl
@[simp] theorem State.writeSound_cpu (s : State) (x : Byte) : (s.writeSound x).cpu = s.cpu := rfl
@[simp] theorem State.writeSound_status (s : State) (x : Byte) : (s.writeSound x).status = s.status := rfl
@[simp] theorem State.writeSound_beep (s : State) (x : Byte) : (s.writeSound x).beep = s.beep := rfl
@[simp] theorem State.writeSound_loadOpen (s : State) (x : Byte) : (s.writeSound x).loadOpen = s.loadOpen := rfl
@[simp] theorem State.writeSound_inputs (s : State) (x : Byte) : (s.writeSound x).inputs = s.inputs := rfl

/-! ## memWrite -/

@[simp] theorem State.memWrite_params (s : State) (a : Nat) (x : Byte) : (s.memWrite a x).params = s.params := rfl
@[simp] theorem State.memWrite_v (s : State) (a : Nat) (x : Byte) : (s.memWrite a x).v = s.v := rfl
@[simp] theorem State.memWrite_i (s : State) (a : Nat) (x : Byte) : (s.memWrite a x).i = s.i := rfl
@[simp] theorem State.memWrite_pc (s : State) (a : Nat) (x : Byte) : (s.memWrite a x).pc = s.pc := rfl
@[simp] theorem State.memWrite_stack (s : State) (a : Nat) (x : Byte) : (s.memWrite a x).stack = s.stack := rfl
@[simp] theorem State.memWrite_fb (s : State) (a : Nat) (x : Byte) : (s.memWrite a x).fb = s.fb := rfl
@[simp] theorem State.memWrite_dt (s : State) (a : Nat) (x : Byte) : (s.memWrite a x).dt = s.dt := rfl
@[simp] theorem State.memWrite_st (s : State) (a : Nat) (x : Byte) : (s.memWrite a x).st = s.st := rfl
@[simp] theorem State.memWrite_keys (s : State) (a : Nat) (x : Byte) : (s.memWrite a x).keys = s.keys := rfl
@[simp] theorem State.memWrite_keyPrev (s : State) (a : Nat) (x : Byte) : (s.memWrite a x).keyPrev = s.keyPrev := rfl
@[simp] theorem State.memWrite_cpu (s : State) (a : Nat) (x : Byte) : (s.memWrite a x).cpu = s.cpu := rfl
@[simp] theorem State.memWrite_status (s : State) (a : Nat) (x : Byte) : (s.memWrite a x).status = s.status := rfl
@[simp] theorem State.memWrite_beep (s : State) (a : Nat) (x : Byte) : (s.memWrite a x).beep = s.beep := rfl
@[simp] theorem State.memWrite_loadOpen (s : State) (a : Nat) (x : Byte) : (s.memWrite a x).loadOpen = s.loadOpen := rfl
@[simp] theorem State.memWrite_inputs (s : State) (a : Nat) (x : Byte) : (s.memWrite a x).inputs = s.inputs := rfl

/-! ## afterRand -/

@[simp] theorem State.afterRand_params (s : State) : (s.afterRand).params = s.params := rfl
@[simp] theorem State.afterRand_mem (s : State) : (s.afterRand).mem = s.mem := rfl
@[simp] theorem State.afterRand_v (s : State) : (s.afterRand).v = s.v := rfl
@[simp] theorem State.afterRand_i (s : State) : (s.afterRand).i = s.i := rfl
@[simp] theorem State.afterRand_pc (s : State) : (s.afterRand).pc = s.pc := rfl
@[simp] theorem State.afterRand_stack (s : State) : (s.afterRand).stack = s.stack := rfl
@[simp] theorem State.afterRand_fb (s : State) : (s.afterRand).fb = s.fb := rfl
@[simp] theorem State.afterRand_dt (s : State) : (s.afterRand).dt = s.dt := rfl
@[simp] theorem State.afterRand_st (s : State) : (s.afterRand).st = s.st := rfl
@[simp] theorem State.afterRand_keys (s : State) : (s.afterRand).keys = s.keys := rfl
@[simp] theorem State.afterRand_keyPrev (s : State) : (s.afterRand).keyPrev = s.keyPrev := rfl
@[simp] theorem State.afterRand_cpu (s : State) : (s.afterRand).cpu = s.cpu := rfl
@[simp] theorem State.afterRand_status (s : State) : (s.afterRand).status = s.status := rfl
@[simp] theorem State.afterRand_beep (s : State) : (s.afterRand).beep = s.beep := rfl
@[simp] theorem State.afterRand_written (s : State) : (s.afterRand).written = s.written := rfl
@[simp] theorem State.afterRand_loadOpen (s : State) : (s.afterRand).loadOpen = s.loadOpen := rfl

/-! ## afterKeyDraw -/

@[simp] theorem State.afterKeyDraw_params (s : State) : (s.afterKeyDraw).params = s.params := rfl
@[simp] theorem State.afterKeyDraw_mem (s : State) : (s.afterKeyDraw).mem = s.mem := rfl
@[simp] theorem State.afterKeyDraw_v (s : State) : (s.afterKeyDraw).v = s.v := rfl
@[simp] theorem State.afterKeyDraw_i (s : State) : (s.afterKeyDraw).i = s.i := rfl
@[simp] theorem State.afterKeyDraw_pc (s : State) : (s.afterKeyDraw).pc = s.pc := rfl
@[simp] theorem State.afterKeyDraw_stack (s : State) : (s.afterKeyDraw).stack = s.stack := rfl
@[simp] theorem State.afterKeyDraw_fb (s : State) : (s.afterKeyDraw).fb = s.fb := rfl
@[simp] theorem State.afterKeyDraw_dt (s : State) : (s.afterKeyDraw).dt = s.dt := rfl
@[simp] theorem State.afterKeyDraw_st (s : State) : (s.afterKeyDraw).st = s.st := rfl
@[simp] theorem State.afterKeyDraw_keys (s : State) : (s.afterKeyDraw).keys = s.keys := rfl
@[simp] theorem State.afterKeyDraw_keyPrev (s : State) : (s.afterKeyDraw).keyPrev = s.keyPrev := rfl
@[simp] theorem State.afterKeyDraw_cpu (s : State) : (s.afterKeyDraw).cpu = s.cpu := rfl
@[simp] theorem State.afterKeyDraw_status (s : State) : (s.afterKeyDraw).status = s.status := rfl
@[simp] theorem State.afterKeyDraw_beep (s : State) : (s.afterKeyDraw).beep = s.beep := rfl
@[simp] theorem State.afterKeyDraw_written (s : State) : (s.afterKeyDraw).written = s.written := rfl
@[simp] theorem State.afterKeyDraw_loadOpen (s : State) : (s.afterKeyDraw).loadOpen = s.loadOpen := rfl

/-! ## timerTick -/

@[simp] theorem State.timerTick_params (s : State) : (s.timerTick).params = s.params := rfl
@[simp] theorem State.timerTick_mem (s : State) : (s.timerTick).mem = s.mem := rfl
@[simp] theorem State.timerTick_v (s : State) : (s.timerTick).v = s.v := rfl
@[simp] theorem State.timerTick_i (s : State) : (s.timerTick).i = s.i := rfl
@[simp] theorem State.timerTick_pc (s : State) : (s.timerTick).pc = s.pc := rfl
@[simp] theorem State.timerTick_stack (s : State) : (s.timerTick).stack = s.stack := rfl
@[simp] theorem State.timerTick_fb (s : State) : (s.timerTick).fb = s.fb := rfl
@[simp] theorem State.timerTick_keys (s : State) : (s.timerTick).keys = s.keys := rfl
@[simp] theorem State.timerTick_keyPrev (s : State) : (s.timerTick).keyPrev = s.keyPrev := rfl
@[simp] theorem State.timerTick_cpu (s : State) : (s.timerTick).cpu = s.cpu := rfl
@[simp] theorem State.timerTick_status (s : State) : (s.timerTick).status = s.status := rfl
@[simp] theorem State.timerTick_written (s : State) : (s.timerTick).written = s.written := rfl
@[simp] theorem State.timerTick_loadOpen (s : State) : (s.timerTick).loadOpen = s.loadOpen := rfl
@[simp] theorem State.timerTick_inputs (s : State) : (s.timerTick).inputs = s.inputs := rfl

/-! ## keepWaiting -/

@[simp] theorem State.keepWaiting_params (s : State) (x : RegIdx) : (s.keepWaiting x).params = s.params := rfl
@[simp] theorem State.keepWaiting_mem (s : State) (x : RegIdx) : (s.keepWaiting x).mem = s.mem := rfl
@[simp] theorem State.keepWaiting_v (s : State) (x : RegIdx) : (s.keepWaiting x).v = s.v := rfl
@[simp] theorem State.keepWaiting_i (s : State) (x : RegIdx) : (s.keepWaiting x).i = s.i := rfl
@[simp] theorem State.keepWaiting_pc (s : State) (x : RegIdx) : (s.keepWaiting x).pc = s.pc := rfl
@[simp] theorem State.keepWaiting_stack (s : State) (x : RegIdx) : (s.keepWaiting x).stack = s.stack := rfl
@[simp] theorem State.keepWaiting_fb (s : State) (x : RegIdx) : (s.keepWaiting x).fb = s.fb := rfl
@[simp] theorem State.keepWaiting_dt (s : State) (x : RegIdx) : (s.keepWaiting x).dt = s.dt := rfl
@[simp] theorem State.keepWaiting_st (s : State) (x : RegIdx) : (s.keepWaiting x).st = s.st := rfl
@[simp] theorem State.keepWaiting_keys (s : State) (x : RegIdx) : (s.keepWaiting x).keys = s.keys := rfl
@[simp] theorem State.keepWaiting_beep (s : State) (x : RegIdx) : (s.keepWaiting x).beep = s.beep := rfl
@[simp] theorem State.keepWaiting_written (s : State) (x : RegIdx) : (s.keepWaiting x).written = s.written := rfl
@[simp] theorem State.keepWaiting_loadOpen (s : State) (x : RegIdx) : (s.keepWaiting x).loadOpen = s.loadOpen := rfl
@[simp] theorem State.keepWaiting_inputs (s : State) (x : RegIdx) : (s.keepWaiting x).inputs = s.inputs := rfl

/-! ## takeKey -/

@[simp] theorem State.takeKey_params (s : State) (x k : RegIdx) (rest : List RegIdx) : (s.takeKey x k rest).params = s.params := rfl
@[simp] theorem State.takeKey_mem (s : State) (x k : RegIdx) (rest : List RegIdx) : (s.takeKey x k rest).mem = s.mem := rfl
@[simp] theorem State.takeKey_i (s : State) (x k : RegIdx) (rest : List RegIdx) : (s.takeKey x k rest).i = s.i := rfl
@[simp] theorem State.takeKey_pc (s : State) (x k : RegIdx) (rest : List RegIdx) : (s.takeKey x k rest).pc = s.pc := rfl
@[simp] theorem State.takeKey_stack (s : State) (x k : RegIdx) (rest : List RegIdx) : (s.takeKey x k rest).stack = s.stack := rfl
@[simp] theorem State.takeKey_fb (s : State) (x k : RegIdx) (rest : List RegIdx) : (s.takeKey x k rest).fb = s.fb := rfl
@[simp] theorem State.takeKey_dt (s : State) (x k : RegIdx) (rest : List RegIdx) : (s.takeKey x k rest).dt = s.dt := rfl
@[simp] theorem State.takeKey_st (s : State) (x k : RegIdx) (rest : List RegIdx) : (s.takeKey x k rest).st = s.st := rfl
@[simp] theorem State.takeKey_keys (s : State) (x k : RegIdx) (rest : List RegIdx) : (s.takeKey x k rest).keys = s.keys := rfl
@[simp] theorem State.takeKey_keyPrev (s : State) (x k : RegIdx) (rest : List RegIdx) : (s.takeKey x k rest).keyPrev = s.keyPrev := rfl
@[simp] theorem State.takeKey_beep (s : State) (x k : RegIdx) (rest : List RegIdx) : (s.takeKey x k rest).beep = s.beep := rfl
@[simp] theorem State.takeKey_loadOpen (s : State) (x k : RegIdx) (rest : List RegIdx) : (s.takeKey x k rest).loadOpen = s.loadOpen := rfl

/-! ## writeWithFlag -/

@[simp] theorem State.writeWithFlag_params (s : State) (x : RegIdx) (y z : Byte) : (s.writeWithFlag x y z).params = s.params := rfl
@[simp] theorem State.writeWithFlag_mem (s : State) (x : RegIdx) (y z : Byte) : (s.writeWithFlag x y z).mem = s.mem := rfl
@[simp] theorem State.writeWithFlag_i (s : State) (x : RegIdx) (y z : Byte) : (s.writeWithFlag x y z).i = s.i := rfl
@[simp] theorem State.writeWithFlag_pc (s : State) (x : RegIdx) (y z : Byte) : (s.writeWithFlag x y z).pc = s.pc := rfl
@[simp] theorem State.writeWithFlag_stack (s : State) (x : RegIdx) (y z : Byte) : (s.writeWithFlag x y z).stack = s.stack := rfl
@[simp] theorem State.writeWithFlag_fb (s : State) (x : RegIdx) (y z : Byte) : (s.writeWithFlag x y z).fb = s.fb := rfl
@[simp] theorem State.writeWithFlag_dt (s : State) (x : RegIdx) (y z : Byte) : (s.writeWithFlag x y z).dt = s.dt := rfl
@[simp] theorem State.writeWithFlag_st (s : State) (x : RegIdx) (y z : Byte) : (s.writeWithFlag x y z).st = s.st := rfl
@[simp] theorem State.writeWithFlag_keys (s : State) (x : RegIdx) (y z : Byte) : (s.writeWithFlag x y z).keys = s.keys := rfl
@[simp] theorem State.writeWithFlag_keyPrev (s : State) (x : RegIdx) (y z : Byte) : (s.writeWithFlag x y z).keyPrev = s.keyPrev := rfl
@[simp] theorem State.writeWithFlag_cpu (s : State) (x : RegIdx) (y z : Byte) : (s.writeWithFlag x y z).cpu = s.cpu := rfl
@[simp] theorem State.writeWithFlag_status (s : State) (x : RegIdx) (y z : Byte) : (s.writeWithFlag x y z).status = s.status := rfl
@[simp] theorem State.writeWithFlag_beep (s : State) (x : RegIdx) (y z : Byte) : (s.writeWithFlag x y z).beep = s.beep := rfl
@[simp] theorem State.writeWithFlag_loadOpen (s : State) (x : RegIdx) (y z : Byte) : (s.writeWithFlag x y z).loadOpen = s.loadOpen := rfl
@[simp] theorem State.writeWithFlag_inputs (s : State) (x : RegIdx) (y z : Byte) : (s.writeWithFlag x y z).inputs = s.inputs := rfl

/-! ## withMoves -/

@[simp] theorem State.withMoves_params (s : State) (rest : List HostMove) : (s.withMoves rest).params = s.params := rfl
@[simp] theorem State.withMoves_mem (s : State) (rest : List HostMove) : (s.withMoves rest).mem = s.mem := rfl
@[simp] theorem State.withMoves_v (s : State) (rest : List HostMove) : (s.withMoves rest).v = s.v := rfl
@[simp] theorem State.withMoves_i (s : State) (rest : List HostMove) : (s.withMoves rest).i = s.i := rfl
@[simp] theorem State.withMoves_pc (s : State) (rest : List HostMove) : (s.withMoves rest).pc = s.pc := rfl
@[simp] theorem State.withMoves_stack (s : State) (rest : List HostMove) : (s.withMoves rest).stack = s.stack := rfl
@[simp] theorem State.withMoves_fb (s : State) (rest : List HostMove) : (s.withMoves rest).fb = s.fb := rfl
@[simp] theorem State.withMoves_dt (s : State) (rest : List HostMove) : (s.withMoves rest).dt = s.dt := rfl
@[simp] theorem State.withMoves_st (s : State) (rest : List HostMove) : (s.withMoves rest).st = s.st := rfl
@[simp] theorem State.withMoves_keys (s : State) (rest : List HostMove) : (s.withMoves rest).keys = s.keys := rfl
@[simp] theorem State.withMoves_keyPrev (s : State) (rest : List HostMove) : (s.withMoves rest).keyPrev = s.keyPrev := rfl
@[simp] theorem State.withMoves_cpu (s : State) (rest : List HostMove) : (s.withMoves rest).cpu = s.cpu := rfl
@[simp] theorem State.withMoves_status (s : State) (rest : List HostMove) : (s.withMoves rest).status = s.status := rfl
@[simp] theorem State.withMoves_beep (s : State) (rest : List HostMove) : (s.withMoves rest).beep = s.beep := rfl
@[simp] theorem State.withMoves_written (s : State) (rest : List HostMove) : (s.withMoves rest).written = s.written := rfl
@[simp] theorem State.withMoves_loadOpen (s : State) (rest : List HostMove) : (s.withMoves rest).loadOpen = s.loadOpen := rfl
@[simp] theorem State.withMoves_inputs (s : State) (rest : List HostMove) :
    (s.withMoves rest).inputs = { s.inputs with moves := rest } := rfl
@[simp] theorem State.withMoves_memRead (s : State) (rest : List HostMove) (a : Nat) :
    (s.withMoves rest).memRead a = s.memRead a := rfl
@[simp] theorem State.withMoves_memWritten (s : State) (rest : List HostMove) (a : Nat) :
    (s.withMoves rest).memWritten a = s.memWritten a := rfl
@[simp] theorem State.withMoves_readReg (s : State) (rest : List HostMove) (r : RegIdx) :
    (s.withMoves rest).readReg r = s.readReg r := rfl
@[simp] theorem State.withMoves_regWritten (s : State) (rest : List HostMove) (r : RegIdx) :
    (s.withMoves rest).regWritten r = s.regWritten r := rfl
@[simp] theorem State.withMoves_fetchWord (s : State) (rest : List HostMove) :
    (s.withMoves rest).fetchWord = s.fetchWord := rfl
@[simp] theorem State.withMoves_fetchReadable (s : State) (rest : List HostMove) :
    (s.withMoves rest).fetchReadable = s.fetchReadable := rfl

/-! ## The fields that change -/

@[simp] theorem State.setPc_pc (s : State) (a : Nat) : (s.setPc a).pc = pcValue a := rfl
@[simp] theorem State.skip_pc (s : State) : s.skip.pc = pcValue (s.pc.toNat + 2) := rfl
@[simp] theorem State.push_stack (s : State) (a : Word) : (s.push a).stack = s.stack ++ [a] := rfl
@[simp] theorem State.raise_status (s : State) (c : Condition) (w : Word) : (s.raise c w).status = ⟨.reported c, w⟩ := rfl
@[simp] theorem State.reportHalted_status (s : State) : s.reportHalted.status = ⟨.halted, s.status.word⟩ := rfl
@[simp] theorem State.reportOk_status (s : State) : s.reportOk.status = ⟨.ok, s.status.word⟩ := rfl
@[simp] theorem State.reportWaiting_status (s : State) : s.reportWaiting.status = ⟨.waiting, s.status.word⟩ := rfl
@[simp] theorem State.closeLoad_loadOpen (s : State) : s.closeLoad.loadOpen = false := rfl
@[simp] theorem State.afterFetch_pc (s : State) : s.afterFetch.pc = pcValue (s.pc.toNat + 2) := rfl
@[simp] theorem State.afterFetch_status (s : State) : s.afterFetch.status = ⟨.ok, s.status.word⟩ := rfl
@[simp] theorem State.clearDisplay_fb (s : State) : s.clearDisplay.fb = Framebuffer.blank := rfl
@[simp] theorem State.writeReg_v (s : State) (r : RegIdx) (x : Byte) : (s.writeReg r x).v = s.v.set r.val x := rfl
@[simp] theorem State.writeIndex_i (s : State) (x : Word) : (s.writeIndex x).i = x := rfl
@[simp] theorem State.writeDelay_dt (s : State) (x : Byte) : (s.writeDelay x).dt = x := rfl
@[simp] theorem State.writeSound_st (s : State) (x : Byte) : (s.writeSound x).st = x := rfl
@[simp] theorem State.memWrite_mem (s : State) (a : Nat) (x : Byte) :
    (s.memWrite a x).mem = Memory.write s.params.fontBase s.mem (decodeAddr a) x := rfl
@[simp] theorem State.keepWaiting_cpu (s : State) (x : RegIdx) : (s.keepWaiting x).cpu = .waiting x := rfl
@[simp] theorem State.keepWaiting_status (s : State) (x : RegIdx) : (s.keepWaiting x).status = ⟨.waiting, s.status.word⟩ := rfl
@[simp] theorem State.takeKey_cpu (s : State) (x k : RegIdx) (rest : List RegIdx) : (s.takeKey x k rest).cpu = .ready := rfl
@[simp] theorem State.takeKey_status (s : State) (x k : RegIdx) (rest : List RegIdx) :
    (s.takeKey x k rest).status = ⟨.ok, s.status.word⟩ := rfl
@[simp] theorem State.timerTick_beep (s : State) : s.timerTick.beep = (s.soundWritten && !(s.st == 0)) := rfl

/-! ## What is read through the accessors -/

@[simp] theorem State.setPc_memRead (s : State) (a : Nat) (b : Nat) : (s.setPc a).memRead b = s.memRead b := rfl
@[simp] theorem State.setPc_memWritten (s : State) (a : Nat) (b : Nat) : (s.setPc a).memWritten b = s.memWritten b := rfl
@[simp] theorem State.setPc_readReg (s : State) (a : Nat) (q : RegIdx) : (s.setPc a).readReg q = s.readReg q := rfl
@[simp] theorem State.setPc_regWritten (s : State) (a : Nat) (q : RegIdx) : (s.setPc a).regWritten q = s.regWritten q := rfl
@[simp] theorem State.setPc_indexWritten (s : State) (a : Nat) : (s.setPc a).indexWritten = s.indexWritten := rfl
@[simp] theorem State.setPc_delayWritten (s : State) (a : Nat) : (s.setPc a).delayWritten = s.delayWritten := rfl
@[simp] theorem State.setPc_soundWritten (s : State) (a : Nat) : (s.setPc a).soundWritten = s.soundWritten := rfl
@[simp] theorem State.setPc_tracksWrites (s : State) (a : Nat) : (s.setPc a).tracksWrites = s.tracksWrites := rfl
@[simp] theorem State.skip_memRead (s : State) (b : Nat) : (s.skip).memRead b = s.memRead b := rfl
@[simp] theorem State.skip_memWritten (s : State) (b : Nat) : (s.skip).memWritten b = s.memWritten b := rfl
@[simp] theorem State.skip_readReg (s : State) (q : RegIdx) : (s.skip).readReg q = s.readReg q := rfl
@[simp] theorem State.skip_regWritten (s : State) (q : RegIdx) : (s.skip).regWritten q = s.regWritten q := rfl
@[simp] theorem State.skip_indexWritten (s : State) : (s.skip).indexWritten = s.indexWritten := rfl
@[simp] theorem State.skip_delayWritten (s : State) : (s.skip).delayWritten = s.delayWritten := rfl
@[simp] theorem State.skip_soundWritten (s : State) : (s.skip).soundWritten = s.soundWritten := rfl
@[simp] theorem State.skip_tracksWrites (s : State) : (s.skip).tracksWrites = s.tracksWrites := rfl
@[simp] theorem State.push_memRead (s : State) (a : Word) (b : Nat) : (s.push a).memRead b = s.memRead b := rfl
@[simp] theorem State.push_memWritten (s : State) (a : Word) (b : Nat) : (s.push a).memWritten b = s.memWritten b := rfl
@[simp] theorem State.push_readReg (s : State) (a : Word) (q : RegIdx) : (s.push a).readReg q = s.readReg q := rfl
@[simp] theorem State.push_regWritten (s : State) (a : Word) (q : RegIdx) : (s.push a).regWritten q = s.regWritten q := rfl
@[simp] theorem State.push_indexWritten (s : State) (a : Word) : (s.push a).indexWritten = s.indexWritten := rfl
@[simp] theorem State.push_delayWritten (s : State) (a : Word) : (s.push a).delayWritten = s.delayWritten := rfl
@[simp] theorem State.push_soundWritten (s : State) (a : Word) : (s.push a).soundWritten = s.soundWritten := rfl
@[simp] theorem State.push_tracksWrites (s : State) (a : Word) : (s.push a).tracksWrites = s.tracksWrites := rfl
@[simp] theorem State.raise_memRead (s : State) (c : Condition) (w : Word) (b : Nat) : (s.raise c w).memRead b = s.memRead b := rfl
@[simp] theorem State.raise_memWritten (s : State) (c : Condition) (w : Word) (b : Nat) : (s.raise c w).memWritten b = s.memWritten b := rfl
@[simp] theorem State.raise_readReg (s : State) (c : Condition) (w : Word) (q : RegIdx) : (s.raise c w).readReg q = s.readReg q := rfl
@[simp] theorem State.raise_regWritten (s : State) (c : Condition) (w : Word) (q : RegIdx) : (s.raise c w).regWritten q = s.regWritten q := rfl
@[simp] theorem State.raise_indexWritten (s : State) (c : Condition) (w : Word) : (s.raise c w).indexWritten = s.indexWritten := rfl
@[simp] theorem State.raise_delayWritten (s : State) (c : Condition) (w : Word) : (s.raise c w).delayWritten = s.delayWritten := rfl
@[simp] theorem State.raise_soundWritten (s : State) (c : Condition) (w : Word) : (s.raise c w).soundWritten = s.soundWritten := rfl
@[simp] theorem State.raise_tracksWrites (s : State) (c : Condition) (w : Word) : (s.raise c w).tracksWrites = s.tracksWrites := rfl
@[simp] theorem State.reportHalted_memRead (s : State) (b : Nat) : (s.reportHalted).memRead b = s.memRead b := rfl
@[simp] theorem State.reportHalted_memWritten (s : State) (b : Nat) : (s.reportHalted).memWritten b = s.memWritten b := rfl
@[simp] theorem State.reportHalted_readReg (s : State) (q : RegIdx) : (s.reportHalted).readReg q = s.readReg q := rfl
@[simp] theorem State.reportHalted_regWritten (s : State) (q : RegIdx) : (s.reportHalted).regWritten q = s.regWritten q := rfl
@[simp] theorem State.reportHalted_indexWritten (s : State) : (s.reportHalted).indexWritten = s.indexWritten := rfl
@[simp] theorem State.reportHalted_delayWritten (s : State) : (s.reportHalted).delayWritten = s.delayWritten := rfl
@[simp] theorem State.reportHalted_soundWritten (s : State) : (s.reportHalted).soundWritten = s.soundWritten := rfl
@[simp] theorem State.reportHalted_tracksWrites (s : State) : (s.reportHalted).tracksWrites = s.tracksWrites := rfl
@[simp] theorem State.reportOk_memRead (s : State) (b : Nat) : (s.reportOk).memRead b = s.memRead b := rfl
@[simp] theorem State.reportOk_memWritten (s : State) (b : Nat) : (s.reportOk).memWritten b = s.memWritten b := rfl
@[simp] theorem State.reportOk_readReg (s : State) (q : RegIdx) : (s.reportOk).readReg q = s.readReg q := rfl
@[simp] theorem State.reportOk_regWritten (s : State) (q : RegIdx) : (s.reportOk).regWritten q = s.regWritten q := rfl
@[simp] theorem State.reportOk_indexWritten (s : State) : (s.reportOk).indexWritten = s.indexWritten := rfl
@[simp] theorem State.reportOk_delayWritten (s : State) : (s.reportOk).delayWritten = s.delayWritten := rfl
@[simp] theorem State.reportOk_soundWritten (s : State) : (s.reportOk).soundWritten = s.soundWritten := rfl
@[simp] theorem State.reportOk_tracksWrites (s : State) : (s.reportOk).tracksWrites = s.tracksWrites := rfl
@[simp] theorem State.reportWaiting_memRead (s : State) (b : Nat) : (s.reportWaiting).memRead b = s.memRead b := rfl
@[simp] theorem State.reportWaiting_memWritten (s : State) (b : Nat) : (s.reportWaiting).memWritten b = s.memWritten b := rfl
@[simp] theorem State.reportWaiting_readReg (s : State) (q : RegIdx) : (s.reportWaiting).readReg q = s.readReg q := rfl
@[simp] theorem State.reportWaiting_regWritten (s : State) (q : RegIdx) : (s.reportWaiting).regWritten q = s.regWritten q := rfl
@[simp] theorem State.reportWaiting_indexWritten (s : State) : (s.reportWaiting).indexWritten = s.indexWritten := rfl
@[simp] theorem State.reportWaiting_delayWritten (s : State) : (s.reportWaiting).delayWritten = s.delayWritten := rfl
@[simp] theorem State.reportWaiting_soundWritten (s : State) : (s.reportWaiting).soundWritten = s.soundWritten := rfl
@[simp] theorem State.reportWaiting_tracksWrites (s : State) : (s.reportWaiting).tracksWrites = s.tracksWrites := rfl
@[simp] theorem State.closeLoad_memRead (s : State) (b : Nat) : (s.closeLoad).memRead b = s.memRead b := rfl
@[simp] theorem State.closeLoad_memWritten (s : State) (b : Nat) : (s.closeLoad).memWritten b = s.memWritten b := rfl
@[simp] theorem State.closeLoad_readReg (s : State) (q : RegIdx) : (s.closeLoad).readReg q = s.readReg q := rfl
@[simp] theorem State.closeLoad_regWritten (s : State) (q : RegIdx) : (s.closeLoad).regWritten q = s.regWritten q := rfl
@[simp] theorem State.closeLoad_indexWritten (s : State) : (s.closeLoad).indexWritten = s.indexWritten := rfl
@[simp] theorem State.closeLoad_delayWritten (s : State) : (s.closeLoad).delayWritten = s.delayWritten := rfl
@[simp] theorem State.closeLoad_soundWritten (s : State) : (s.closeLoad).soundWritten = s.soundWritten := rfl
@[simp] theorem State.closeLoad_tracksWrites (s : State) : (s.closeLoad).tracksWrites = s.tracksWrites := rfl
@[simp] theorem State.afterFetch_memRead (s : State) (b : Nat) : (s.afterFetch).memRead b = s.memRead b := rfl
@[simp] theorem State.afterFetch_memWritten (s : State) (b : Nat) : (s.afterFetch).memWritten b = s.memWritten b := rfl
@[simp] theorem State.afterFetch_readReg (s : State) (q : RegIdx) : (s.afterFetch).readReg q = s.readReg q := rfl
@[simp] theorem State.afterFetch_regWritten (s : State) (q : RegIdx) : (s.afterFetch).regWritten q = s.regWritten q := rfl
@[simp] theorem State.afterFetch_indexWritten (s : State) : (s.afterFetch).indexWritten = s.indexWritten := rfl
@[simp] theorem State.afterFetch_delayWritten (s : State) : (s.afterFetch).delayWritten = s.delayWritten := rfl
@[simp] theorem State.afterFetch_soundWritten (s : State) : (s.afterFetch).soundWritten = s.soundWritten := rfl
@[simp] theorem State.afterFetch_tracksWrites (s : State) : (s.afterFetch).tracksWrites = s.tracksWrites := rfl
@[simp] theorem State.clearDisplay_memRead (s : State) (b : Nat) : (s.clearDisplay).memRead b = s.memRead b := rfl
@[simp] theorem State.clearDisplay_memWritten (s : State) (b : Nat) : (s.clearDisplay).memWritten b = s.memWritten b := rfl
@[simp] theorem State.clearDisplay_readReg (s : State) (q : RegIdx) : (s.clearDisplay).readReg q = s.readReg q := rfl
@[simp] theorem State.clearDisplay_regWritten (s : State) (q : RegIdx) : (s.clearDisplay).regWritten q = s.regWritten q := rfl
@[simp] theorem State.clearDisplay_indexWritten (s : State) : (s.clearDisplay).indexWritten = s.indexWritten := rfl
@[simp] theorem State.clearDisplay_delayWritten (s : State) : (s.clearDisplay).delayWritten = s.delayWritten := rfl
@[simp] theorem State.clearDisplay_soundWritten (s : State) : (s.clearDisplay).soundWritten = s.soundWritten := rfl
@[simp] theorem State.clearDisplay_tracksWrites (s : State) : (s.clearDisplay).tracksWrites = s.tracksWrites := rfl
@[simp] theorem State.writeReg_memRead (s : State) (r : RegIdx) (x : Byte) (b : Nat) : (s.writeReg r x).memRead b = s.memRead b := rfl
@[simp] theorem State.writeReg_tracksWrites (s : State) (r : RegIdx) (x : Byte) : (s.writeReg r x).tracksWrites = s.tracksWrites := rfl
@[simp] theorem State.writeIndex_memRead (s : State) (x : Word) (b : Nat) : (s.writeIndex x).memRead b = s.memRead b := rfl
@[simp] theorem State.writeIndex_readReg (s : State) (x : Word) (q : RegIdx) : (s.writeIndex x).readReg q = s.readReg q := rfl
@[simp] theorem State.writeIndex_tracksWrites (s : State) (x : Word) : (s.writeIndex x).tracksWrites = s.tracksWrites := rfl
@[simp] theorem State.writeDelay_memRead (s : State) (x : Byte) (b : Nat) : (s.writeDelay x).memRead b = s.memRead b := rfl
@[simp] theorem State.writeDelay_readReg (s : State) (x : Byte) (q : RegIdx) : (s.writeDelay x).readReg q = s.readReg q := rfl
@[simp] theorem State.writeDelay_tracksWrites (s : State) (x : Byte) : (s.writeDelay x).tracksWrites = s.tracksWrites := rfl
@[simp] theorem State.writeSound_memRead (s : State) (x : Byte) (b : Nat) : (s.writeSound x).memRead b = s.memRead b := rfl
@[simp] theorem State.writeSound_readReg (s : State) (x : Byte) (q : RegIdx) : (s.writeSound x).readReg q = s.readReg q := rfl
@[simp] theorem State.writeSound_tracksWrites (s : State) (x : Byte) : (s.writeSound x).tracksWrites = s.tracksWrites := rfl
@[simp] theorem State.memWrite_readReg (s : State) (a : Nat) (x : Byte) (q : RegIdx) : (s.memWrite a x).readReg q = s.readReg q := rfl
@[simp] theorem State.memWrite_tracksWrites (s : State) (a : Nat) (x : Byte) : (s.memWrite a x).tracksWrites = s.tracksWrites := rfl
@[simp] theorem State.afterRand_memRead (s : State) (b : Nat) : (s.afterRand).memRead b = s.memRead b := rfl
@[simp] theorem State.afterRand_memWritten (s : State) (b : Nat) : (s.afterRand).memWritten b = s.memWritten b := rfl
@[simp] theorem State.afterRand_readReg (s : State) (q : RegIdx) : (s.afterRand).readReg q = s.readReg q := rfl
@[simp] theorem State.afterRand_regWritten (s : State) (q : RegIdx) : (s.afterRand).regWritten q = s.regWritten q := rfl
@[simp] theorem State.afterRand_indexWritten (s : State) : (s.afterRand).indexWritten = s.indexWritten := rfl
@[simp] theorem State.afterRand_delayWritten (s : State) : (s.afterRand).delayWritten = s.delayWritten := rfl
@[simp] theorem State.afterRand_soundWritten (s : State) : (s.afterRand).soundWritten = s.soundWritten := rfl
@[simp] theorem State.afterRand_tracksWrites (s : State) : (s.afterRand).tracksWrites = s.tracksWrites := rfl
@[simp] theorem State.afterKeyDraw_memRead (s : State) (b : Nat) : (s.afterKeyDraw).memRead b = s.memRead b := rfl
@[simp] theorem State.afterKeyDraw_memWritten (s : State) (b : Nat) : (s.afterKeyDraw).memWritten b = s.memWritten b := rfl
@[simp] theorem State.afterKeyDraw_readReg (s : State) (q : RegIdx) : (s.afterKeyDraw).readReg q = s.readReg q := rfl
@[simp] theorem State.afterKeyDraw_regWritten (s : State) (q : RegIdx) : (s.afterKeyDraw).regWritten q = s.regWritten q := rfl
@[simp] theorem State.afterKeyDraw_indexWritten (s : State) : (s.afterKeyDraw).indexWritten = s.indexWritten := rfl
@[simp] theorem State.afterKeyDraw_delayWritten (s : State) : (s.afterKeyDraw).delayWritten = s.delayWritten := rfl
@[simp] theorem State.afterKeyDraw_soundWritten (s : State) : (s.afterKeyDraw).soundWritten = s.soundWritten := rfl
@[simp] theorem State.afterKeyDraw_tracksWrites (s : State) : (s.afterKeyDraw).tracksWrites = s.tracksWrites := rfl
@[simp] theorem State.timerTick_memRead (s : State) (b : Nat) : (s.timerTick).memRead b = s.memRead b := rfl
@[simp] theorem State.timerTick_memWritten (s : State) (b : Nat) : (s.timerTick).memWritten b = s.memWritten b := rfl
@[simp] theorem State.timerTick_readReg (s : State) (q : RegIdx) : (s.timerTick).readReg q = s.readReg q := rfl
@[simp] theorem State.timerTick_regWritten (s : State) (q : RegIdx) : (s.timerTick).regWritten q = s.regWritten q := rfl
@[simp] theorem State.timerTick_indexWritten (s : State) : (s.timerTick).indexWritten = s.indexWritten := rfl
@[simp] theorem State.timerTick_delayWritten (s : State) : (s.timerTick).delayWritten = s.delayWritten := rfl
@[simp] theorem State.timerTick_soundWritten (s : State) : (s.timerTick).soundWritten = s.soundWritten := rfl
@[simp] theorem State.timerTick_tracksWrites (s : State) : (s.timerTick).tracksWrites = s.tracksWrites := rfl
@[simp] theorem State.keepWaiting_memRead (s : State) (x : RegIdx) (b : Nat) : (s.keepWaiting x).memRead b = s.memRead b := rfl
@[simp] theorem State.keepWaiting_memWritten (s : State) (x : RegIdx) (b : Nat) : (s.keepWaiting x).memWritten b = s.memWritten b := rfl
@[simp] theorem State.keepWaiting_readReg (s : State) (x : RegIdx) (q : RegIdx) : (s.keepWaiting x).readReg q = s.readReg q := rfl
@[simp] theorem State.keepWaiting_regWritten (s : State) (x : RegIdx) (q : RegIdx) : (s.keepWaiting x).regWritten q = s.regWritten q := rfl
@[simp] theorem State.keepWaiting_indexWritten (s : State) (x : RegIdx) : (s.keepWaiting x).indexWritten = s.indexWritten := rfl
@[simp] theorem State.keepWaiting_delayWritten (s : State) (x : RegIdx) : (s.keepWaiting x).delayWritten = s.delayWritten := rfl
@[simp] theorem State.keepWaiting_soundWritten (s : State) (x : RegIdx) : (s.keepWaiting x).soundWritten = s.soundWritten := rfl
@[simp] theorem State.keepWaiting_tracksWrites (s : State) (x : RegIdx) : (s.keepWaiting x).tracksWrites = s.tracksWrites := rfl
@[simp] theorem State.takeKey_memRead (s : State) (x k : RegIdx) (rest : List RegIdx) (b : Nat) : (s.takeKey x k rest).memRead b = s.memRead b := rfl
@[simp] theorem State.takeKey_tracksWrites (s : State) (x k : RegIdx) (rest : List RegIdx) : (s.takeKey x k rest).tracksWrites = s.tracksWrites := rfl
@[simp] theorem State.writeWithFlag_memRead (s : State) (x : RegIdx) (y z : Byte) (b : Nat) : (s.writeWithFlag x y z).memRead b = s.memRead b := rfl
@[simp] theorem State.writeWithFlag_tracksWrites (s : State) (x : RegIdx) (y z : Byte) : (s.writeWithFlag x y z).tracksWrites = s.tracksWrites := rfl

end Sys2Proof.Machine
end

