-- ==== Sys2Proof/Laws/Memory.lean ====
section
/-! SUPPORT. The memory: what a read gives after a write, and that every write keeps the canonical form. -/

namespace Sys2Proof.Machine

/-! ## Addresses -/

@[simp] theorem decodeAddr_lt (a : Nat) : decodeAddr a < 4096 := Nat.mod_lt _ (by decide)

@[simp] theorem decodeAddr_idem (a : Nat) : decodeAddr (decodeAddr a) = decodeAddr a := Nat.mod_mod _ _

@[simp] theorem decodeAddr_add_mul (a k : Nat) : decodeAddr (a + 4096 * k) = decodeAddr a := by
  simp [decodeAddr]

theorem decodeAddr_of_lt {a : Nat} (h : a < 4096) : decodeAddr a = a := Nat.mod_eq_of_lt h

/-- Two addresses of a run shorter than the memory are one byte only when they are one offset. -/
theorem decodeAddr_run_injective {a i j : Nat} (hi : i < 4096) (hj : j < 4096)
    (h : decodeAddr (a + i) = decodeAddr (a + j)) : i = j := by
  unfold decodeAddr at h
  omega

/-! ## The list of cells -/

/-- Rising addresses. -/
abbrev Memory.Rising (m : Memory) : Prop := m.Pairwise fun p q => p.1 < q.1

theorem Memory.lookup_none_of_rising {m : Memory} {a : Nat} (h : ∀ c ∈ m, a < c.1) : m.lookup a = none := by
  induction m with
  | nil => rfl
  | cons c rest ih =>
    have hc : a < c.1 := h c (by simp)
    have : c.1 ≠ a := by omega
    simp only [Memory.lookup, this, if_false]
    exact ih fun d hd => h d (by simp [hd])

theorem Memory.lookup_put (m : Memory) (a b : Nat) (v : Byte) :
    (m.put a v).lookup b = if a = b then some v else m.lookup b := by
  induction m with
  | nil => simp [Memory.put, Memory.lookup]
  | cons c rest ih =>
    obtain ⟨k, w⟩ := c
    unfold Memory.put
    split_ifs with h1 h2 h3 h4 <;> simp_all [Memory.lookup]
    intro h; omega

theorem Memory.lookup_drop {m : Memory} (hm : m.Rising) (a b : Nat) :
    (m.drop a).lookup b = if a = b then none else m.lookup b := by
  induction m with
  | nil => simp [Memory.drop, Memory.lookup]
  | cons c rest ih =>
    obtain ⟨k, w⟩ := c
    obtain ⟨hk, hrest⟩ := List.pairwise_cons.mp hm
    unfold Memory.drop
    by_cases h1 : k = a
    · subst h1
      by_cases h2 : k = b
      · subst h2
        simp only [if_true]
        exact Memory.lookup_none_of_rising fun c hc => hk c hc
      · simp [h2, Memory.lookup]
    · by_cases h2 : a = b
      · subst h2
        simpa [h1, Memory.lookup] using ih hrest
      · simp only [h1, if_false, Memory.lookup, ih hrest, h2]

theorem Memory.mem_put {m : Memory} {a : Nat} {v : Byte} {c : Host.Cell} (h : c ∈ m.put a v) : c = (a, v) ∨ c ∈ m := by
  induction m with
  | nil => simpa [Memory.put] using h
  | cons d rest ih =>
    obtain ⟨k, w⟩ := d
    unfold Memory.put at h
    split_ifs at h with h1 h2
    · simpa using h
    · simp only [List.mem_cons] at h ⊢
      tauto
    · simp only [List.mem_cons] at h ⊢
      rcases h with h | h
      · exact .inr (.inl h)
      · rcases ih h with h | h
        · exact .inl h
        · exact .inr (.inr h)

theorem Memory.mem_drop {m : Memory} {a : Nat} {c : Host.Cell} (h : c ∈ m.drop a) : c ∈ m := by
  induction m with
  | nil => exact h
  | cons d rest ih =>
    obtain ⟨k, w⟩ := d
    unfold Memory.drop at h
    split_ifs at h
    · exact List.mem_cons_of_mem _ h
    · rcases List.mem_cons.mp h with h | h
      · simp [h]
      · exact List.mem_cons_of_mem _ (ih h)

theorem Memory.rising_put {m : Memory} (hm : m.Rising) (a : Nat) (v : Byte) : (m.put a v).Rising := by
  induction m with
  | nil => simp [Memory.put, Memory.Rising]
  | cons d rest ih =>
    obtain ⟨k, w⟩ := d
    obtain ⟨hk, hrest⟩ := List.pairwise_cons.mp hm
    unfold Memory.put
    split_ifs with h1 h2
    · refine List.pairwise_cons.mpr ⟨?_, hm⟩
      intro c hc
      rcases List.mem_cons.mp hc with rfl | hc
      · exact h1
      · exact Nat.lt_trans h1 (hk c hc)
    · subst h2
      exact List.pairwise_cons.mpr ⟨hk, hrest⟩
    · refine List.pairwise_cons.mpr ⟨?_, ih hrest⟩
      intro c hc
      rcases Memory.mem_put hc with rfl | hc
      · show k < a
        omega
      · exact hk c hc

theorem Memory.rising_drop {m : Memory} (hm : m.Rising) (a : Nat) : (m.drop a).Rising := by
  induction m with
  | nil => simp [Memory.drop, Memory.Rising]
  | cons d rest ih =>
    obtain ⟨k, w⟩ := d
    obtain ⟨hk, hrest⟩ := List.pairwise_cons.mp hm
    unfold Memory.drop
    split_ifs with h1
    · exact hrest
    · exact List.pairwise_cons.mpr ⟨fun c hc => hk c (Memory.mem_drop hc), ih hrest⟩

/-! ## The canonical form -/

theorem Memory.wf_iff {f : Addr} {m : Memory} :
    Memory.wf f m = true ↔ m.Rising ∧ ∀ c ∈ m, c.1 < 4096 ∧ c.2 ≠ resetByte f c.1 := by
  simp [Memory.wf, Memory.Rising]

theorem Memory.rising_of_wf {f : Addr} {m : Memory} (h : Memory.wf f m = true) : m.Rising :=
  (Memory.wf_iff.mp h).1

/-- Every write keeps the canonical form. -/
theorem Memory.wf_write {f : Addr} {m : Memory} (h : Memory.wf f m = true) {a : Nat} (ha : a < 4096) (v : Byte) :
    Memory.wf f (Memory.write f m a v) = true := by
  obtain ⟨hr, hc⟩ := Memory.wf_iff.mp h
  unfold Memory.write
  split_ifs with hv
  · exact Memory.wf_iff.mpr ⟨Memory.rising_drop hr a, fun c hd => hc c (Memory.mem_drop hd)⟩
  · refine Memory.wf_iff.mpr ⟨Memory.rising_put hr a v, fun c hp => ?_⟩
    rcases Memory.mem_put hp with rfl | hm
    · exact ⟨ha, hv⟩
    · exact hc c hm

/-- What a read gives after a write. -/
theorem Memory.read_write {f : Addr} {m : Memory} (h : Memory.wf f m = true) (a b : Nat) (v : Byte) :
    Memory.read f (Memory.write f m a v) b = if a = b then v else Memory.read f m b := by
  unfold Memory.write Memory.read
  split_ifs with hv hab hab
  · subst hab
    simp [Memory.lookup_drop (Memory.rising_of_wf h), hv]
  · simp [Memory.lookup_drop (Memory.rising_of_wf h), hab]
  · subst hab
    simp [Memory.lookup_put]
  · simp [Memory.lookup_put, hab]

/-- A listed cell after a write is the written one or was listed before. -/
theorem Memory.mem_write {f : Addr} {m : Memory} {a : Nat} {v : Byte} {c : Host.Cell}
    (h : c ∈ Memory.write f m a v) : c.1 = a ∨ c ∈ m := by
  unfold Memory.write at h
  split_ifs at h
  · exact .inr (Memory.mem_drop h)
  · rcases Memory.mem_put h with rfl | h
    · exact .inl rfl
    · exact .inr h

/-! ## The written addresses -/

theorem mem_addAddress {l : List Nat} {a b : Nat} : b ∈ addAddress l a ↔ b = a ∨ b ∈ l := by
  induction l with
  | nil => simp [addAddress]
  | cons k rest ih =>
    unfold addAddress
    split_ifs with h1 h2
    · simp
    · subst h2; simp
    · simp only [List.mem_cons, ih]
      tauto

theorem addAddress_rising {l : List Nat} (h : l.Pairwise (· < ·)) (a : Nat) : (addAddress l a).Pairwise (· < ·) := by
  induction l with
  | nil => simp [addAddress]
  | cons k rest ih =>
    obtain ⟨hk, hrest⟩ := List.pairwise_cons.mp h
    unfold addAddress
    split_ifs with h1 h2
    · refine List.pairwise_cons.mpr ⟨?_, h⟩
      intro c hc
      rcases List.mem_cons.mp hc with rfl | hc
      · exact h1
      · exact Nat.lt_trans h1 (hk c hc)
    · exact h
    · refine List.pairwise_cons.mpr ⟨?_, ih hrest⟩
      intro c hc
      rcases mem_addAddress.mp hc with rfl | hc
      · omega
      · exact hk c hc

/-! ## Reads and writes of the state -/

theorem State.memWrite_wf {s : State} (h : Memory.wf s.params.fontBase s.mem = true) (a : Nat) (v : Byte) :
    Memory.wf (s.memWrite a v).params.fontBase (s.memWrite a v).mem = true :=
  Memory.wf_write h (decodeAddr_lt a) v

theorem State.memRead_memWrite {s : State} (h : Memory.wf s.params.fontBase s.mem = true) (a b : Nat) (v : Byte) :
    (s.memWrite a v).memRead b = if decodeAddr a = decodeAddr b then v else s.memRead b :=
  Memory.read_write h _ _ v

theorem State.memWrite_written_mem (s : State) (a : Nat) (v : Byte) :
    (s.memWrite a v).written.mem =
      if s.tracksWrites then addAddress s.written.mem (decodeAddr a) else s.written.mem := by
  simp only [State.memWrite]
  split <;> rfl

theorem State.memWritten_memWrite (s : State) (a b : Nat) (v : Byte) :
    (s.memWrite a v).memWritten b = (decide (decodeAddr a = decodeAddr b) || s.memWritten b) := by
  simp only [State.memWritten, State.memWrite_written_mem, State.memWrite_tracksWrites, State.memWrite_params]
  cases ht : s.tracksWrites
  · simp
  · rw [Bool.eq_iff_iff]
    simp only [Bool.not_true, Bool.false_or, if_true, Bool.or_eq_true, List.contains_iff_mem, mem_addAddress,
      decide_eq_true_eq]
    constructor
    · rintro (h | h | h)
      · exact .inr (.inl h)
      · exact .inl h.symm
      · exact .inr (.inr h)
    · rintro (h | h | h)
      · exact .inr (.inl h.symm)
      · exact .inl h
      · exact .inr (.inr h)

@[simp] theorem State.memWrite_regWritten (s : State) (a : Nat) (v : Byte) (r : RegIdx) :
    (s.memWrite a v).regWritten r = s.regWritten r := by
  simp only [State.regWritten, State.memWrite]
  split <;> rfl

@[simp] theorem State.memWrite_indexWritten (s : State) (a : Nat) (v : Byte) :
    (s.memWrite a v).indexWritten = s.indexWritten := by
  simp only [State.indexWritten, State.memWrite]
  split <;> rfl

@[simp] theorem State.memWrite_delayWritten (s : State) (a : Nat) (v : Byte) :
    (s.memWrite a v).delayWritten = s.delayWritten := by
  simp only [State.delayWritten, State.memWrite]
  split <;> rfl

@[simp] theorem State.memWrite_soundWritten (s : State) (a : Nat) (v : Byte) :
    (s.memWrite a v).soundWritten = s.soundWritten := by
  simp only [State.soundWritten, State.memWrite]
  split <;> rfl

/-! ## Runs of bytes -/

theorem State.memReadList_length (s : State) (a n : Nat) : (s.memReadList a n).length = n := by
  induction n generalizing a with
  | zero => rfl
  | succ n ih => simp [State.memReadList, ih]

theorem State.memReadList_getElem (s : State) (a n k : Nat) (hk : k < (s.memReadList a n).length) :
    (s.memReadList a n)[k] = s.memRead (a + k) := by
  induction n generalizing a k with
  | zero => simp [State.memReadList] at hk
  | succ n ih =>
    cases k with
    | zero => simp [State.memReadList]
    | succ k =>
      simp only [State.memReadList, List.getElem_cons_succ]
      rw [ih]
      congr 1
      omega

theorem State.memWrittenRun_iff (s : State) (a n : Nat) :
    s.memWrittenRun a n = true ↔ ∀ k < n, s.memWritten (a + k) = true := by
  induction n generalizing a with
  | zero => simp [State.memWrittenRun]
  | succ n ih =>
    simp only [State.memWrittenRun, Bool.and_eq_true, ih]
    constructor
    · rintro ⟨h0, h⟩ k hk
      cases k with
      | zero => exact h0
      | succ k =>
        have := h k (by omega)
        rwa [Nat.add_assoc, Nat.add_comm 1 k] at this
    · intro h
      refine ⟨h 0 (by omega), fun k hk => ?_⟩
      have := h (k + 1) (by omega)
      rwa [Nat.add_comm k 1, ← Nat.add_assoc] at this

theorem State.memWrittenRun_false_iff (s : State) (a n : Nat) :
    s.memWrittenRun a n = false ↔ ∃ k < n, s.memWritten (a + k) = false := by
  rw [← Bool.not_eq_true, State.memWrittenRun_iff]
  simp

/-- What a run of writes does to a relation that every single write keeps. -/
theorem State.memWriteList_induct {P : State → Prop} (hP : ∀ s a v, P s → P (s.memWrite a v)) {s : State} (h : P s)
    (a : Nat) (l : List Byte) : P (s.memWriteList a l) := by
  induction l generalizing s a with
  | nil => exact h
  | cons b rest ih => exact ih (hP s a b h) (a + 1)

theorem State.memWriteList_wf {s : State} (h : Memory.wf s.params.fontBase s.mem = true) (a : Nat) (l : List Byte) :
    Memory.wf (s.memWriteList a l).params.fontBase (s.memWriteList a l).mem = true :=
  State.memWriteList_induct (P := fun s => Memory.wf s.params.fontBase s.mem = true)
    (fun _ a v h => State.memWrite_wf h a v) h a l

/-- Outside the run a byte reads as before. -/
theorem State.memRead_memWriteList_outside {s : State} (h : Memory.wf s.params.fontBase s.mem = true) {a b : Nat}
    {l : List Byte} (hb : ∀ k < l.length, decodeAddr b ≠ decodeAddr (a + k)) :
    (s.memWriteList a l).memRead b = s.memRead b := by
  induction l generalizing s a with
  | nil => rfl
  | cons c rest ih =>
    have h0 : decodeAddr a ≠ decodeAddr b := fun e => hb 0 (by simp) (by simpa using e.symm)
    rw [State.memWriteList, ih (State.memWrite_wf h a c), State.memRead_memWrite h, if_neg h0]
    intro k hk
    have := hb (k + 1) (by simpa using hk)
    rwa [Nat.add_comm k 1, ← Nat.add_assoc] at this

/-- Inside a run shorter than the memory a byte reads as the byte written there. -/
theorem State.memRead_memWriteList_inside {s : State} (h : Memory.wf s.params.fontBase s.mem = true) {a k : Nat}
    {l : List Byte} (hl : l.length ≤ 4096) (hk : k < l.length) : (s.memWriteList a l).memRead (a + k) = l[k] := by
  induction l generalizing s a k with
  | nil => simp at hk
  | cons c rest ih =>
    simp only [List.length_cons] at hl hk
    cases k with
    | zero =>
      rw [State.memWriteList, State.memRead_memWriteList_outside (State.memWrite_wf h a c),
        State.memRead_memWrite h, if_pos (by simp)]
      · rfl
      · intro j hj e
        have e' : decodeAddr (a + 0) = decodeAddr (a + (1 + j)) := by rw [e]; congr 1; omega
        have := decodeAddr_run_injective (by omega) (by omega) e'
        omega
    | succ k =>
      have := ih (State.memWrite_wf h a c) (a := a + 1) (k := k) (by omega) (by omega)
      rw [State.memWriteList, show a + (k + 1) = a + 1 + k by omega, this]
      rfl

theorem State.memWritten_memWriteList (s : State) (a b : Nat) (l : List Byte) :
    (s.memWriteList a l).memWritten b = true ↔
      (∃ k < l.length, decodeAddr (a + k) = decodeAddr b) ∨ s.memWritten b = true := by
  induction l generalizing s a with
  | nil => simp [State.memWriteList]
  | cons c rest ih =>
    rw [State.memWriteList, ih, State.memWritten_memWrite]
    simp only [Bool.or_eq_true, decide_eq_true_eq, List.length_cons]
    constructor
    · rintro (⟨k, hk, e⟩ | e | e)
      · exact .inl ⟨k + 1, by omega, by rw [← e]; congr 1; omega⟩
      · exact .inl ⟨0, by omega, by simpa using e⟩
      · exact .inr e
    · rintro (⟨k, hk, e⟩ | e)
      · cases k with
        | zero => exact .inr (.inl (by simpa using e))
        | succ k => exact .inl ⟨k, by omega, by rw [← e]; congr 1; omega⟩
      · exact .inr (.inr e)

end Sys2Proof.Machine
end

