-- ==== Sys2Proof/Laws/PerInstr.lean ====
section
/-! SUPPORT. Statements made for every instruction: the word of an instruction as a number, written out from the fields
of spec 30 R80 and the rows of R86. -/

namespace Sys2Proof.Laws

/-- The number of an instruction's word, written out from R80 and R86. -/
def wordNumber : Instr → Nat
  | .cls => 0x00E0
  | .ret => 0x00EE
  | .jp nnn => 0x1000 + nnn.toNat
  | .call nnn => 0x2000 + nnn.toNat
  | .seImm x nn => 0x3000 + 0x100 * x.val + nn.toNat
  | .sneImm x nn => 0x4000 + 0x100 * x.val + nn.toNat
  | .seReg x y => 0x5000 + 0x100 * x.val + 0x10 * y.val
  | .ldImm x nn => 0x6000 + 0x100 * x.val + nn.toNat
  | .addImm x nn => 0x7000 + 0x100 * x.val + nn.toNat
  | .ldReg x y => 0x8000 + 0x100 * x.val + 0x10 * y.val
  | .orReg x y => 0x8001 + 0x100 * x.val + 0x10 * y.val
  | .andReg x y => 0x8002 + 0x100 * x.val + 0x10 * y.val
  | .xorReg x y => 0x8003 + 0x100 * x.val + 0x10 * y.val
  | .addReg x y => 0x8004 + 0x100 * x.val + 0x10 * y.val
  | .subReg x y => 0x8005 + 0x100 * x.val + 0x10 * y.val
  | .shr x y => 0x8006 + 0x100 * x.val + 0x10 * y.val
  | .subnReg x y => 0x8007 + 0x100 * x.val + 0x10 * y.val
  | .shl x y => 0x800E + 0x100 * x.val + 0x10 * y.val
  | .sneReg x y => 0x9000 + 0x100 * x.val + 0x10 * y.val
  | .ldI nnn => 0xA000 + nnn.toNat
  | .jpOffset nnn => 0xB000 + nnn.toNat
  | .rnd x nn => 0xC000 + 0x100 * x.val + nn.toNat
  | .drw x y n => 0xD000 + 0x100 * x.val + 0x10 * y.val + n.val
  | .skp x => 0xE09E + 0x100 * x.val
  | .sknp x => 0xE0A1 + 0x100 * x.val
  | .ldVxDt x => 0xF007 + 0x100 * x.val
  | .ldVxK x => 0xF00A + 0x100 * x.val
  | .ldDtVx x => 0xF015 + 0x100 * x.val
  | .ldStVx x => 0xF018 + 0x100 * x.val
  | .addI x => 0xF01E + 0x100 * x.val
  | .ldFont x => 0xF029 + 0x100 * x.val
  | .ldBcd x => 0xF033 + 0x100 * x.val
  | .storeRegs x => 0xF055 + 0x100 * x.val
  | .loadRegs x => 0xF065 + 0x100 * x.val

/-- The word of the instruction is that number. -/
def WordNumber.Statement (i : Instr) : Prop := (encode i).toNat = wordNumber i

theorem WordNumber.cls : WordNumber.Statement .cls := by
  unfold WordNumber.Statement; decide

theorem WordNumber.ret : WordNumber.Statement .ret := by
  unfold WordNumber.Statement; decide

theorem WordNumber.jp (nnn : Addr) : WordNumber.Statement (.jp nnn) := by
  simp only [WordNumber.Statement, encode, encodeNNN_toNat, wordNumber, BitVec.reduceToNat]

theorem WordNumber.call (nnn : Addr) : WordNumber.Statement (.call nnn) := by
  simp only [WordNumber.Statement, encode, encodeNNN_toNat, wordNumber, BitVec.reduceToNat]

theorem WordNumber.seImm (x : RegIdx) (nn : Byte) : WordNumber.Statement (.seImm x nn) := by
  simp only [WordNumber.Statement, encode, encodeXNN_toNat, wordNumber, BitVec.reduceToNat]

theorem WordNumber.sneImm (x : RegIdx) (nn : Byte) : WordNumber.Statement (.sneImm x nn) := by
  simp only [WordNumber.Statement, encode, encodeXNN_toNat, wordNumber, BitVec.reduceToNat]

theorem WordNumber.seReg (x y : RegIdx) : WordNumber.Statement (.seReg x y) := by
  simp only [WordNumber.Statement, encode, encodeXYN_toNat, wordNumber, BitVec.reduceToNat]
  omega

theorem WordNumber.ldImm (x : RegIdx) (nn : Byte) : WordNumber.Statement (.ldImm x nn) := by
  simp only [WordNumber.Statement, encode, encodeXNN_toNat, wordNumber, BitVec.reduceToNat]

theorem WordNumber.addImm (x : RegIdx) (nn : Byte) : WordNumber.Statement (.addImm x nn) := by
  simp only [WordNumber.Statement, encode, encodeXNN_toNat, wordNumber, BitVec.reduceToNat]

theorem WordNumber.ldReg (x y : RegIdx) : WordNumber.Statement (.ldReg x y) := by
  simp only [WordNumber.Statement, encode, encodeXYN_toNat, wordNumber, BitVec.reduceToNat]
  omega

theorem WordNumber.orReg (x y : RegIdx) : WordNumber.Statement (.orReg x y) := by
  simp only [WordNumber.Statement, encode, encodeXYN_toNat, wordNumber, BitVec.reduceToNat]
  omega

theorem WordNumber.andReg (x y : RegIdx) : WordNumber.Statement (.andReg x y) := by
  simp only [WordNumber.Statement, encode, encodeXYN_toNat, wordNumber, BitVec.reduceToNat]
  omega

theorem WordNumber.xorReg (x y : RegIdx) : WordNumber.Statement (.xorReg x y) := by
  simp only [WordNumber.Statement, encode, encodeXYN_toNat, wordNumber, BitVec.reduceToNat]
  omega

theorem WordNumber.addReg (x y : RegIdx) : WordNumber.Statement (.addReg x y) := by
  simp only [WordNumber.Statement, encode, encodeXYN_toNat, wordNumber, BitVec.reduceToNat]
  omega

theorem WordNumber.subReg (x y : RegIdx) : WordNumber.Statement (.subReg x y) := by
  simp only [WordNumber.Statement, encode, encodeXYN_toNat, wordNumber, BitVec.reduceToNat]
  omega

theorem WordNumber.shr (x y : RegIdx) : WordNumber.Statement (.shr x y) := by
  simp only [WordNumber.Statement, encode, encodeXYN_toNat, wordNumber, BitVec.reduceToNat]
  omega

theorem WordNumber.subnReg (x y : RegIdx) : WordNumber.Statement (.subnReg x y) := by
  simp only [WordNumber.Statement, encode, encodeXYN_toNat, wordNumber, BitVec.reduceToNat]
  omega

theorem WordNumber.shl (x y : RegIdx) : WordNumber.Statement (.shl x y) := by
  simp only [WordNumber.Statement, encode, encodeXYN_toNat, wordNumber, BitVec.reduceToNat]
  omega

theorem WordNumber.sneReg (x y : RegIdx) : WordNumber.Statement (.sneReg x y) := by
  simp only [WordNumber.Statement, encode, encodeXYN_toNat, wordNumber, BitVec.reduceToNat]
  omega

theorem WordNumber.ldI (nnn : Addr) : WordNumber.Statement (.ldI nnn) := by
  simp only [WordNumber.Statement, encode, encodeNNN_toNat, wordNumber, BitVec.reduceToNat]

theorem WordNumber.jpOffset (nnn : Addr) : WordNumber.Statement (.jpOffset nnn) := by
  simp only [WordNumber.Statement, encode, encodeNNN_toNat, wordNumber, BitVec.reduceToNat]

theorem WordNumber.rnd (x : RegIdx) (nn : Byte) : WordNumber.Statement (.rnd x nn) := by
  simp only [WordNumber.Statement, encode, encodeXNN_toNat, wordNumber, BitVec.reduceToNat]

theorem WordNumber.drw (x y : RegIdx) (n : Fin 16) : WordNumber.Statement (.drw x y n) := by
  simp only [WordNumber.Statement, encode, encodeXYN_toNat, wordNumber, BitVec.toNat_ofFin, BitVec.reduceToNat]

theorem WordNumber.skp (x : RegIdx) : WordNumber.Statement (.skp x) := by
  simp only [WordNumber.Statement, encode, encodeXNN_toNat, wordNumber, BitVec.reduceToNat]
  omega

theorem WordNumber.sknp (x : RegIdx) : WordNumber.Statement (.sknp x) := by
  simp only [WordNumber.Statement, encode, encodeXNN_toNat, wordNumber, BitVec.reduceToNat]
  omega

theorem WordNumber.ldVxDt (x : RegIdx) : WordNumber.Statement (.ldVxDt x) := by
  simp only [WordNumber.Statement, encode, encodeXNN_toNat, wordNumber, BitVec.reduceToNat]
  omega

theorem WordNumber.ldVxK (x : RegIdx) : WordNumber.Statement (.ldVxK x) := by
  simp only [WordNumber.Statement, encode, encodeXNN_toNat, wordNumber, BitVec.reduceToNat]
  omega

theorem WordNumber.ldDtVx (x : RegIdx) : WordNumber.Statement (.ldDtVx x) := by
  simp only [WordNumber.Statement, encode, encodeXNN_toNat, wordNumber, BitVec.reduceToNat]
  omega

theorem WordNumber.ldStVx (x : RegIdx) : WordNumber.Statement (.ldStVx x) := by
  simp only [WordNumber.Statement, encode, encodeXNN_toNat, wordNumber, BitVec.reduceToNat]
  omega

theorem WordNumber.addI (x : RegIdx) : WordNumber.Statement (.addI x) := by
  simp only [WordNumber.Statement, encode, encodeXNN_toNat, wordNumber, BitVec.reduceToNat]
  omega

theorem WordNumber.ldFont (x : RegIdx) : WordNumber.Statement (.ldFont x) := by
  simp only [WordNumber.Statement, encode, encodeXNN_toNat, wordNumber, BitVec.reduceToNat]
  omega

theorem WordNumber.ldBcd (x : RegIdx) : WordNumber.Statement (.ldBcd x) := by
  simp only [WordNumber.Statement, encode, encodeXNN_toNat, wordNumber, BitVec.reduceToNat]
  omega

theorem WordNumber.storeRegs (x : RegIdx) : WordNumber.Statement (.storeRegs x) := by
  simp only [WordNumber.Statement, encode, encodeXNN_toNat, wordNumber, BitVec.reduceToNat]
  omega

theorem WordNumber.loadRegs (x : RegIdx) : WordNumber.Statement (.loadRegs x) := by
  simp only [WordNumber.Statement, encode, encodeXNN_toNat, wordNumber, BitVec.reduceToNat]
  omega

end Sys2Proof.Laws
end

