-- ==== Sys2Proof/Laws/Registers.lean ====
section
/-! SUPPORT. The registers: what a read gives after a write, and what each write leaves of the `written` bits; the
operations built from writes. -/

namespace Sys2Proof.Machine

/-! ## Reading after writing -/

theorem State.readReg_writeReg (s : State) (r q : RegIdx) (x : Byte) :
    (s.writeReg r x).readReg q = if r = q then x else s.readReg q := by
  simp only [State.readReg, State.writeReg_v, Vector.getElem_set, Fin.val_inj]

@[simp] theorem State.readReg_writeReg_self (s : State) (r : RegIdx) (x : Byte) : (s.writeReg r x).readReg r = x := by
  simp [State.readReg_writeReg]

theorem State.readReg_writeReg_ne (s : State) {r q : RegIdx} (x : Byte) (h : q ≠ r) :
    (s.writeReg r x).readReg q = s.readReg q := by
  rw [State.readReg_writeReg, if_neg (Ne.symm h)]

theorem State.regWritten_writeReg (s : State) (r q : RegIdx) (x : Byte) :
    (s.writeReg r x).regWritten q = (decide (r = q) || s.regWritten q) := by
  have hbit : (1#16 <<< r.val).getLsbD q.val = decide (r = q) := by
    revert r q; decide
  have hr : (s.writeReg r x).written.regs =
      if s.tracksWrites then s.written.regs ||| (1#16 <<< r.val) else s.written.regs := by
    simp only [State.writeReg]
    split <;> rfl
  unfold State.regWritten
  rw [State.writeReg_tracksWrites, hr]
  cases s.tracksWrites
  · simp
  · simp only [if_true, Bool.not_true, Bool.false_or, BitVec.getLsbD_or, hbit, Bool.or_comm]

@[simp] theorem State.regWritten_writeReg_self (s : State) (r : RegIdx) (x : Byte) :
    (s.writeReg r x).regWritten r = true := by
  simp [State.regWritten_writeReg]

theorem State.regWritten_writeReg_ne (s : State) {r q : RegIdx} (x : Byte) (h : q ≠ r) :
    (s.writeReg r x).regWritten q = s.regWritten q := by
  simp [State.regWritten_writeReg, Ne.symm h]

@[simp] theorem State.writeIndex_indexWritten (s : State) (x : Word) : (s.writeIndex x).indexWritten = true := by
  have hw : (s.writeIndex x).written.index = (s.tracksWrites || s.written.index) := by
    simp only [State.writeIndex]
    cases s.tracksWrites <;> rfl
  unfold State.indexWritten
  rw [State.writeIndex_tracksWrites, hw]
  cases s.tracksWrites <;> rfl

@[simp] theorem State.writeDelay_delayWritten (s : State) (x : Byte) : (s.writeDelay x).delayWritten = true := by
  have hw : (s.writeDelay x).written.delay = (s.tracksWrites || s.written.delay) := by
    simp only [State.writeDelay]
    cases s.tracksWrites <;> rfl
  unfold State.delayWritten
  rw [State.writeDelay_tracksWrites, hw]
  cases s.tracksWrites <;> rfl

@[simp] theorem State.writeSound_soundWritten (s : State) (x : Byte) : (s.writeSound x).soundWritten = true := by
  have hw : (s.writeSound x).written.sound = (s.tracksWrites || s.written.sound) := by
    simp only [State.writeSound]
    cases s.tracksWrites <;> rfl
  unfold State.soundWritten
  rw [State.writeSound_tracksWrites, hw]
  cases s.tracksWrites <;> rfl

/-! ## The `written` bits of everything else -/

@[simp] theorem State.writeReg_memWritten (s : State) (r : RegIdx) (x : Byte) (b : Nat) : (s.writeReg r x).memWritten b = s.memWritten b := by
  simp only [State.memWritten, State.writeReg]
  split <;> rfl

@[simp] theorem State.writeReg_indexWritten (s : State) (r : RegIdx) (x : Byte) : (s.writeReg r x).indexWritten = s.indexWritten := by
  simp only [State.indexWritten, State.writeReg]
  split <;> rfl

@[simp] theorem State.writeReg_delayWritten (s : State) (r : RegIdx) (x : Byte) : (s.writeReg r x).delayWritten = s.delayWritten := by
  simp only [State.delayWritten, State.writeReg]
  split <;> rfl

@[simp] theorem State.writeReg_soundWritten (s : State) (r : RegIdx) (x : Byte) : (s.writeReg r x).soundWritten = s.soundWritten := by
  simp only [State.soundWritten, State.writeReg]
  split <;> rfl

@[simp] theorem State.writeIndex_memWritten (s : State) (x : Word) (b : Nat) : (s.writeIndex x).memWritten b = s.memWritten b := by
  simp only [State.memWritten, State.writeIndex]
  split <;> rfl

@[simp] theorem State.writeIndex_regWritten (s : State) (x : Word) (q : RegIdx) : (s.writeIndex x).regWritten q = s.regWritten q := by
  simp only [State.regWritten, State.writeIndex]
  split <;> rfl

@[simp] theorem State.writeIndex_delayWritten (s : State) (x : Word) : (s.writeIndex x).delayWritten = s.delayWritten := by
  simp only [State.delayWritten, State.writeIndex]
  split <;> rfl

@[simp] theorem State.writeIndex_soundWritten (s : State) (x : Word) : (s.writeIndex x).soundWritten = s.soundWritten := by
  simp only [State.soundWritten, State.writeIndex]
  split <;> rfl

@[simp] theorem State.writeDelay_memWritten (s : State) (x : Byte) (b : Nat) : (s.writeDelay x).memWritten b = s.memWritten b := by
  simp only [State.memWritten, State.writeDelay]
  split <;> rfl

@[simp] theorem State.writeDelay_regWritten (s : State) (x : Byte) (q : RegIdx) : (s.writeDelay x).regWritten q = s.regWritten q := by
  simp only [State.regWritten, State.writeDelay]
  split <;> rfl

@[simp] theorem State.writeDelay_indexWritten (s : State) (x : Byte) : (s.writeDelay x).indexWritten = s.indexWritten := by
  simp only [State.indexWritten, State.writeDelay]
  split <;> rfl

@[simp] theorem State.writeDelay_soundWritten (s : State) (x : Byte) : (s.writeDelay x).soundWritten = s.soundWritten := by
  simp only [State.soundWritten, State.writeDelay]
  split <;> rfl

@[simp] theorem State.writeSound_memWritten (s : State) (x : Byte) (b : Nat) : (s.writeSound x).memWritten b = s.memWritten b := by
  simp only [State.memWritten, State.writeSound]
  split <;> rfl

@[simp] theorem State.writeSound_regWritten (s : State) (x : Byte) (q : RegIdx) : (s.writeSound x).regWritten q = s.regWritten q := by
  simp only [State.regWritten, State.writeSound]
  split <;> rfl

@[simp] theorem State.writeSound_indexWritten (s : State) (x : Byte) : (s.writeSound x).indexWritten = s.indexWritten := by
  simp only [State.indexWritten, State.writeSound]
  split <;> rfl

@[simp] theorem State.writeSound_delayWritten (s : State) (x : Byte) : (s.writeSound x).delayWritten = s.delayWritten := by
  simp only [State.delayWritten, State.writeSound]
  split <;> rfl

/-! ## A result and a flag -/

theorem State.readReg_writeWithFlag (s : State) (x q : RegIdx) (y z : Byte) :
    (s.writeWithFlag x y z).readReg q = if q = vf then z else if q = x then y else s.readReg q := by
  simp only [State.writeWithFlag, State.readReg_writeReg, eq_comm]

theorem State.regWritten_writeWithFlag (s : State) (x q : RegIdx) (y z : Byte) :
    (s.writeWithFlag x y z).regWritten q = (decide (q = vf) || (decide (q = x) || s.regWritten q)) := by
  simp only [State.writeWithFlag, State.regWritten_writeReg, eq_comm]

@[simp] theorem State.writeWithFlag_memWritten (s : State) (x : RegIdx) (y z : Byte) (b : Nat) :
    (s.writeWithFlag x y z).memWritten b = s.memWritten b := by
  simp [State.writeWithFlag]

@[simp] theorem State.writeWithFlag_indexWritten (s : State) (x : RegIdx) (y z : Byte) :
    (s.writeWithFlag x y z).indexWritten = s.indexWritten := by
  simp [State.writeWithFlag]

@[simp] theorem State.writeWithFlag_delayWritten (s : State) (x : RegIdx) (y z : Byte) :
    (s.writeWithFlag x y z).delayWritten = s.delayWritten := by
  simp [State.writeWithFlag]

@[simp] theorem State.writeWithFlag_soundWritten (s : State) (x : RegIdx) (y z : Byte) :
    (s.writeWithFlag x y z).soundWritten = s.soundWritten := by
  simp [State.writeWithFlag]

/-! ## A block of registers -/

/-- What a run of register writes does to a relation that every single write keeps. -/
theorem State.writeRegList_induct {P : State → Prop} (hP : ∀ s r x, P s → P (s.writeReg r x)) {s : State} (h : P s)
    (k : Nat) (l : List Byte) : P (s.writeRegList k l) := by
  induction l generalizing s k with
  | nil => exact h
  | cons b rest ih => exact ih (hP s _ b h) (k + 1)

theorem State.readReg_writeRegList (s : State) (k : Nat) (l : List Byte) (hk : k + l.length ≤ 16) (q : RegIdx) :
    (s.writeRegList k l).readReg q =
      if h : k ≤ q.val ∧ q.val < k + l.length then l[q.val - k]'(by omega) else s.readReg q := by
  induction l generalizing s k with
  | nil =>
    simp [State.writeRegList]
  | cons b rest ih =>
    simp only [List.length_cons] at hk ⊢
    rw [State.writeRegList, ih _ _ (by omega), State.readReg_writeReg]
    have hval : (Fin.ofNat 16 k).val = k := Nat.mod_eq_of_lt (by omega)
    by_cases h1 : k + 1 ≤ q.val ∧ q.val < k + 1 + rest.length
    · rw [dif_pos h1, dif_pos (by omega), List.getElem_cons, dif_neg (by omega)]
      congr 1
    · rw [dif_neg h1]
      by_cases h2 : k = q.val
      · have : Fin.ofNat 16 k = q := Fin.ext (by rw [hval, h2])
        rw [if_pos this, dif_pos (by omega), List.getElem_cons, dif_pos (by omega)]
      · have : Fin.ofNat 16 k ≠ q := fun e => h2 (by rw [← e, hval])
        rw [if_neg this, dif_neg (by omega)]

theorem State.regWritten_writeRegList (s : State) (k : Nat) (l : List Byte) (hk : k + l.length ≤ 16) (q : RegIdx) :
    (s.writeRegList k l).regWritten q = (decide (k ≤ q.val ∧ q.val < k + l.length) || s.regWritten q) := by
  induction l generalizing s k with
  | nil =>
    simp [State.writeRegList]
  | cons b rest ih =>
    simp only [List.length_cons] at hk ⊢
    rw [State.writeRegList, ih _ _ (by omega), State.regWritten_writeReg]
    have hval : (Fin.ofNat 16 k).val = k := Nat.mod_eq_of_lt (by omega)
    have hq : (Fin.ofNat 16 k = q) ↔ k = q.val := by rw [← Fin.val_inj, hval]
    rw [← Bool.or_assoc]
    congr 1
    rw [Bool.eq_iff_iff]
    simp only [Bool.or_eq_true, decide_eq_true_eq, hq]
    omega

/-! ## What the compound writes leave alone -/

@[simp] theorem State.writeRegList_params (s : State) (k : Nat) (l : List Byte) : (s.writeRegList k l).params = s.params :=
  State.writeRegList_induct (P := fun t => t.params = s.params) (fun _ _ _ h => h) rfl k l

@[simp] theorem State.writeRegList_mem (s : State) (k : Nat) (l : List Byte) : (s.writeRegList k l).mem = s.mem :=
  State.writeRegList_induct (P := fun t => t.mem = s.mem) (fun _ _ _ h => h) rfl k l

@[simp] theorem State.writeRegList_i (s : State) (k : Nat) (l : List Byte) : (s.writeRegList k l).i = s.i :=
  State.writeRegList_induct (P := fun t => t.i = s.i) (fun _ _ _ h => h) rfl k l

@[simp] theorem State.writeRegList_pc (s : State) (k : Nat) (l : List Byte) : (s.writeRegList k l).pc = s.pc :=
  State.writeRegList_induct (P := fun t => t.pc = s.pc) (fun _ _ _ h => h) rfl k l

@[simp] theorem State.writeRegList_stack (s : State) (k : Nat) (l : List Byte) : (s.writeRegList k l).stack = s.stack :=
  State.writeRegList_induct (P := fun t => t.stack = s.stack) (fun _ _ _ h => h) rfl k l

@[simp] theorem State.writeRegList_fb (s : State) (k : Nat) (l : List Byte) : (s.writeRegList k l).fb = s.fb :=
  State.writeRegList_induct (P := fun t => t.fb = s.fb) (fun _ _ _ h => h) rfl k l

@[simp] theorem State.writeRegList_dt (s : State) (k : Nat) (l : List Byte) : (s.writeRegList k l).dt = s.dt :=
  State.writeRegList_induct (P := fun t => t.dt = s.dt) (fun _ _ _ h => h) rfl k l

@[simp] theorem State.writeRegList_st (s : State) (k : Nat) (l : List Byte) : (s.writeRegList k l).st = s.st :=
  State.writeRegList_induct (P := fun t => t.st = s.st) (fun _ _ _ h => h) rfl k l

@[simp] theorem State.writeRegList_keys (s : State) (k : Nat) (l : List Byte) : (s.writeRegList k l).keys = s.keys :=
  State.writeRegList_induct (P := fun t => t.keys = s.keys) (fun _ _ _ h => h) rfl k l

@[simp] theorem State.writeRegList_keyPrev (s : State) (k : Nat) (l : List Byte) : (s.writeRegList k l).keyPrev = s.keyPrev :=
  State.writeRegList_induct (P := fun t => t.keyPrev = s.keyPrev) (fun _ _ _ h => h) rfl k l

@[simp] theorem State.writeRegList_cpu (s : State) (k : Nat) (l : List Byte) : (s.writeRegList k l).cpu = s.cpu :=
  State.writeRegList_induct (P := fun t => t.cpu = s.cpu) (fun _ _ _ h => h) rfl k l

@[simp] theorem State.writeRegList_status (s : State) (k : Nat) (l : List Byte) : (s.writeRegList k l).status = s.status :=
  State.writeRegList_induct (P := fun t => t.status = s.status) (fun _ _ _ h => h) rfl k l

@[simp] theorem State.writeRegList_beep (s : State) (k : Nat) (l : List Byte) : (s.writeRegList k l).beep = s.beep :=
  State.writeRegList_induct (P := fun t => t.beep = s.beep) (fun _ _ _ h => h) rfl k l

@[simp] theorem State.writeRegList_loadOpen (s : State) (k : Nat) (l : List Byte) : (s.writeRegList k l).loadOpen = s.loadOpen :=
  State.writeRegList_induct (P := fun t => t.loadOpen = s.loadOpen) (fun _ _ _ h => h) rfl k l

@[simp] theorem State.writeRegList_inputs (s : State) (k : Nat) (l : List Byte) : (s.writeRegList k l).inputs = s.inputs :=
  State.writeRegList_induct (P := fun t => t.inputs = s.inputs) (fun _ _ _ h => h) rfl k l

@[simp] theorem State.writeRegList_memRead (s : State) (k : Nat) (l : List Byte) (b : Nat) :
    (s.writeRegList k l).memRead b = s.memRead b :=
  State.writeRegList_induct (P := fun t => t.memRead b = s.memRead b) (fun t _ _ h => by simpa using h) rfl k l

@[simp] theorem State.writeRegList_memWritten (s : State) (k : Nat) (l : List Byte) (b : Nat) :
    (s.writeRegList k l).memWritten b = s.memWritten b :=
  State.writeRegList_induct (P := fun t => t.memWritten b = s.memWritten b) (fun t _ _ h => by simpa using h) rfl k l

@[simp] theorem State.writeRegList_indexWritten (s : State) (k : Nat) (l : List Byte) :
    (s.writeRegList k l).indexWritten = s.indexWritten :=
  State.writeRegList_induct (P := fun t => t.indexWritten = s.indexWritten) (fun t _ _ h => by simpa using h) rfl k l

@[simp] theorem State.writeRegList_delayWritten (s : State) (k : Nat) (l : List Byte) :
    (s.writeRegList k l).delayWritten = s.delayWritten :=
  State.writeRegList_induct (P := fun t => t.delayWritten = s.delayWritten) (fun t _ _ h => by simpa using h) rfl k l

@[simp] theorem State.writeRegList_soundWritten (s : State) (k : Nat) (l : List Byte) :
    (s.writeRegList k l).soundWritten = s.soundWritten :=
  State.writeRegList_induct (P := fun t => t.soundWritten = s.soundWritten) (fun t _ _ h => by simpa using h) rfl k l

@[simp] theorem State.memWriteList_params (s : State) (a : Nat) (l : List Byte) : (s.memWriteList a l).params = s.params :=
  State.memWriteList_induct (P := fun t => t.params = s.params) (fun _ _ _ h => h) rfl a l

@[simp] theorem State.memWriteList_v (s : State) (a : Nat) (l : List Byte) : (s.memWriteList a l).v = s.v :=
  State.memWriteList_induct (P := fun t => t.v = s.v) (fun _ _ _ h => h) rfl a l

@[simp] theorem State.memWriteList_i (s : State) (a : Nat) (l : List Byte) : (s.memWriteList a l).i = s.i :=
  State.memWriteList_induct (P := fun t => t.i = s.i) (fun _ _ _ h => h) rfl a l

@[simp] theorem State.memWriteList_pc (s : State) (a : Nat) (l : List Byte) : (s.memWriteList a l).pc = s.pc :=
  State.memWriteList_induct (P := fun t => t.pc = s.pc) (fun _ _ _ h => h) rfl a l

@[simp] theorem State.memWriteList_stack (s : State) (a : Nat) (l : List Byte) : (s.memWriteList a l).stack = s.stack :=
  State.memWriteList_induct (P := fun t => t.stack = s.stack) (fun _ _ _ h => h) rfl a l

@[simp] theorem State.memWriteList_fb (s : State) (a : Nat) (l : List Byte) : (s.memWriteList a l).fb = s.fb :=
  State.memWriteList_induct (P := fun t => t.fb = s.fb) (fun _ _ _ h => h) rfl a l

@[simp] theorem State.memWriteList_dt (s : State) (a : Nat) (l : List Byte) : (s.memWriteList a l).dt = s.dt :=
  State.memWriteList_induct (P := fun t => t.dt = s.dt) (fun _ _ _ h => h) rfl a l

@[simp] theorem State.memWriteList_st (s : State) (a : Nat) (l : List Byte) : (s.memWriteList a l).st = s.st :=
  State.memWriteList_induct (P := fun t => t.st = s.st) (fun _ _ _ h => h) rfl a l

@[simp] theorem State.memWriteList_keys (s : State) (a : Nat) (l : List Byte) : (s.memWriteList a l).keys = s.keys :=
  State.memWriteList_induct (P := fun t => t.keys = s.keys) (fun _ _ _ h => h) rfl a l

@[simp] theorem State.memWriteList_keyPrev (s : State) (a : Nat) (l : List Byte) : (s.memWriteList a l).keyPrev = s.keyPrev :=
  State.memWriteList_induct (P := fun t => t.keyPrev = s.keyPrev) (fun _ _ _ h => h) rfl a l

@[simp] theorem State.memWriteList_cpu (s : State) (a : Nat) (l : List Byte) : (s.memWriteList a l).cpu = s.cpu :=
  State.memWriteList_induct (P := fun t => t.cpu = s.cpu) (fun _ _ _ h => h) rfl a l

@[simp] theorem State.memWriteList_status (s : State) (a : Nat) (l : List Byte) : (s.memWriteList a l).status = s.status :=
  State.memWriteList_induct (P := fun t => t.status = s.status) (fun _ _ _ h => h) rfl a l

@[simp] theorem State.memWriteList_beep (s : State) (a : Nat) (l : List Byte) : (s.memWriteList a l).beep = s.beep :=
  State.memWriteList_induct (P := fun t => t.beep = s.beep) (fun _ _ _ h => h) rfl a l

@[simp] theorem State.memWriteList_loadOpen (s : State) (a : Nat) (l : List Byte) : (s.memWriteList a l).loadOpen = s.loadOpen :=
  State.memWriteList_induct (P := fun t => t.loadOpen = s.loadOpen) (fun _ _ _ h => h) rfl a l

@[simp] theorem State.memWriteList_inputs (s : State) (a : Nat) (l : List Byte) : (s.memWriteList a l).inputs = s.inputs :=
  State.memWriteList_induct (P := fun t => t.inputs = s.inputs) (fun _ _ _ h => h) rfl a l

@[simp] theorem State.memWriteList_readReg (s : State) (a : Nat) (l : List Byte) (q : RegIdx) :
    (s.memWriteList a l).readReg q = s.readReg q :=
  State.memWriteList_induct (P := fun t => t.readReg q = s.readReg q) (fun t _ _ h => by simpa using h) rfl a l

@[simp] theorem State.memWriteList_regWritten (s : State) (a : Nat) (l : List Byte) (q : RegIdx) :
    (s.memWriteList a l).regWritten q = s.regWritten q :=
  State.memWriteList_induct (P := fun t => t.regWritten q = s.regWritten q) (fun t _ _ h => by simpa using h) rfl a l

@[simp] theorem State.memWriteList_indexWritten (s : State) (a : Nat) (l : List Byte) :
    (s.memWriteList a l).indexWritten = s.indexWritten :=
  State.memWriteList_induct (P := fun t => t.indexWritten = s.indexWritten) (fun t _ _ h => by simpa using h) rfl a l

@[simp] theorem State.memWriteList_delayWritten (s : State) (a : Nat) (l : List Byte) :
    (s.memWriteList a l).delayWritten = s.delayWritten :=
  State.memWriteList_induct (P := fun t => t.delayWritten = s.delayWritten) (fun t _ _ h => by simpa using h) rfl a l

@[simp] theorem State.memWriteList_soundWritten (s : State) (a : Nat) (l : List Byte) :
    (s.memWriteList a l).soundWritten = s.soundWritten :=
  State.memWriteList_induct (P := fun t => t.soundWritten = s.soundWritten) (fun t _ _ h => by simpa using h) rfl a l

@[simp] theorem State.memWriteList_tracksWrites (s : State) (a : Nat) (l : List Byte) :
    (s.memWriteList a l).tracksWrites = s.tracksWrites :=
  State.memWriteList_induct (P := fun t => t.tracksWrites = s.tracksWrites) (fun t _ _ h => by simpa using h) rfl a l

@[simp] theorem State.skipIf_params (s : State) (c : Bool) : (s.skipIf c).params = s.params := by
  unfold State.skipIf
  split <;> rfl

@[simp] theorem State.skipIf_mem (s : State) (c : Bool) : (s.skipIf c).mem = s.mem := by
  unfold State.skipIf
  split <;> rfl

@[simp] theorem State.skipIf_v (s : State) (c : Bool) : (s.skipIf c).v = s.v := by
  unfold State.skipIf
  split <;> rfl

@[simp] theorem State.skipIf_i (s : State) (c : Bool) : (s.skipIf c).i = s.i := by
  unfold State.skipIf
  split <;> rfl

@[simp] theorem State.skipIf_stack (s : State) (c : Bool) : (s.skipIf c).stack = s.stack := by
  unfold State.skipIf
  split <;> rfl

@[simp] theorem State.skipIf_fb (s : State) (c : Bool) : (s.skipIf c).fb = s.fb := by
  unfold State.skipIf
  split <;> rfl

@[simp] theorem State.skipIf_dt (s : State) (c : Bool) : (s.skipIf c).dt = s.dt := by
  unfold State.skipIf
  split <;> rfl

@[simp] theorem State.skipIf_st (s : State) (c : Bool) : (s.skipIf c).st = s.st := by
  unfold State.skipIf
  split <;> rfl

@[simp] theorem State.skipIf_keys (s : State) (c : Bool) : (s.skipIf c).keys = s.keys := by
  unfold State.skipIf
  split <;> rfl

@[simp] theorem State.skipIf_keyPrev (s : State) (c : Bool) : (s.skipIf c).keyPrev = s.keyPrev := by
  unfold State.skipIf
  split <;> rfl

@[simp] theorem State.skipIf_cpu (s : State) (c : Bool) : (s.skipIf c).cpu = s.cpu := by
  unfold State.skipIf
  split <;> rfl

@[simp] theorem State.skipIf_status (s : State) (c : Bool) : (s.skipIf c).status = s.status := by
  unfold State.skipIf
  split <;> rfl

@[simp] theorem State.skipIf_beep (s : State) (c : Bool) : (s.skipIf c).beep = s.beep := by
  unfold State.skipIf
  split <;> rfl

@[simp] theorem State.skipIf_written (s : State) (c : Bool) : (s.skipIf c).written = s.written := by
  unfold State.skipIf
  split <;> rfl

@[simp] theorem State.skipIf_loadOpen (s : State) (c : Bool) : (s.skipIf c).loadOpen = s.loadOpen := by
  unfold State.skipIf
  split <;> rfl

@[simp] theorem State.skipIf_inputs (s : State) (c : Bool) : (s.skipIf c).inputs = s.inputs := by
  unfold State.skipIf
  split <;> rfl

@[simp] theorem State.skipIf_memRead (s : State) (c : Bool) (q : Nat) : (s.skipIf c).memRead q = s.memRead q := by
  unfold State.skipIf
  split <;> simp

@[simp] theorem State.skipIf_memWritten (s : State) (c : Bool) (q : Nat) : (s.skipIf c).memWritten q = s.memWritten q := by
  unfold State.skipIf
  split <;> simp

@[simp] theorem State.skipIf_readReg (s : State) (c : Bool) (q : RegIdx) : (s.skipIf c).readReg q = s.readReg q := by
  unfold State.skipIf
  split <;> simp

@[simp] theorem State.skipIf_regWritten (s : State) (c : Bool) (q : RegIdx) : (s.skipIf c).regWritten q = s.regWritten q := by
  unfold State.skipIf
  split <;> simp

@[simp] theorem State.skipIf_indexWritten (s : State) (c : Bool) : (s.skipIf c).indexWritten = s.indexWritten := by
  unfold State.skipIf
  split <;> simp

@[simp] theorem State.skipIf_delayWritten (s : State) (c : Bool) : (s.skipIf c).delayWritten = s.delayWritten := by
  unfold State.skipIf
  split <;> simp

@[simp] theorem State.skipIf_soundWritten (s : State) (c : Bool) : (s.skipIf c).soundWritten = s.soundWritten := by
  unfold State.skipIf
  split <;> simp

@[simp] theorem State.writeLogic_params (s : State) (x : RegIdx) (y : Byte) : (s.writeLogic x y).params = s.params := by
  unfold State.writeLogic
  split <;> rfl

@[simp] theorem State.writeLogic_mem (s : State) (x : RegIdx) (y : Byte) : (s.writeLogic x y).mem = s.mem := by
  unfold State.writeLogic
  split <;> rfl

@[simp] theorem State.writeLogic_i (s : State) (x : RegIdx) (y : Byte) : (s.writeLogic x y).i = s.i := by
  unfold State.writeLogic
  split <;> rfl

@[simp] theorem State.writeLogic_pc (s : State) (x : RegIdx) (y : Byte) : (s.writeLogic x y).pc = s.pc := by
  unfold State.writeLogic
  split <;> rfl

@[simp] theorem State.writeLogic_stack (s : State) (x : RegIdx) (y : Byte) : (s.writeLogic x y).stack = s.stack := by
  unfold State.writeLogic
  split <;> rfl

@[simp] theorem State.writeLogic_fb (s : State) (x : RegIdx) (y : Byte) : (s.writeLogic x y).fb = s.fb := by
  unfold State.writeLogic
  split <;> rfl

@[simp] theorem State.writeLogic_dt (s : State) (x : RegIdx) (y : Byte) : (s.writeLogic x y).dt = s.dt := by
  unfold State.writeLogic
  split <;> rfl

@[simp] theorem State.writeLogic_st (s : State) (x : RegIdx) (y : Byte) : (s.writeLogic x y).st = s.st := by
  unfold State.writeLogic
  split <;> rfl

@[simp] theorem State.writeLogic_keys (s : State) (x : RegIdx) (y : Byte) : (s.writeLogic x y).keys = s.keys := by
  unfold State.writeLogic
  split <;> rfl

@[simp] theorem State.writeLogic_keyPrev (s : State) (x : RegIdx) (y : Byte) : (s.writeLogic x y).keyPrev = s.keyPrev := by
  unfold State.writeLogic
  split <;> rfl

@[simp] theorem State.writeLogic_cpu (s : State) (x : RegIdx) (y : Byte) : (s.writeLogic x y).cpu = s.cpu := by
  unfold State.writeLogic
  split <;> rfl

@[simp] theorem State.writeLogic_status (s : State) (x : RegIdx) (y : Byte) : (s.writeLogic x y).status = s.status := by
  unfold State.writeLogic
  split <;> rfl

@[simp] theorem State.writeLogic_beep (s : State) (x : RegIdx) (y : Byte) : (s.writeLogic x y).beep = s.beep := by
  unfold State.writeLogic
  split <;> rfl

@[simp] theorem State.writeLogic_loadOpen (s : State) (x : RegIdx) (y : Byte) : (s.writeLogic x y).loadOpen = s.loadOpen := by
  unfold State.writeLogic
  split <;> rfl

@[simp] theorem State.writeLogic_inputs (s : State) (x : RegIdx) (y : Byte) : (s.writeLogic x y).inputs = s.inputs := by
  unfold State.writeLogic
  split <;> rfl

@[simp] theorem State.writeLogic_memRead (s : State) (x : RegIdx) (y : Byte) (q : Nat) : (s.writeLogic x y).memRead q = s.memRead q := by
  unfold State.writeLogic
  split <;> simp

@[simp] theorem State.writeLogic_memWritten (s : State) (x : RegIdx) (y : Byte) (q : Nat) : (s.writeLogic x y).memWritten q = s.memWritten q := by
  unfold State.writeLogic
  split <;> simp

@[simp] theorem State.writeLogic_indexWritten (s : State) (x : RegIdx) (y : Byte) : (s.writeLogic x y).indexWritten = s.indexWritten := by
  unfold State.writeLogic
  split <;> simp

@[simp] theorem State.writeLogic_delayWritten (s : State) (x : RegIdx) (y : Byte) : (s.writeLogic x y).delayWritten = s.delayWritten := by
  unfold State.writeLogic
  split <;> simp

@[simp] theorem State.writeLogic_soundWritten (s : State) (x : RegIdx) (y : Byte) : (s.writeLogic x y).soundWritten = s.soundWritten := by
  unfold State.writeLogic
  split <;> simp

@[simp] theorem State.stepIndex_params (s : State) (x : RegIdx) : (s.stepIndex x).params = s.params := by
  unfold State.stepIndex
  split <;> rfl

@[simp] theorem State.stepIndex_mem (s : State) (x : RegIdx) : (s.stepIndex x).mem = s.mem := by
  unfold State.stepIndex
  split <;> rfl

@[simp] theorem State.stepIndex_v (s : State) (x : RegIdx) : (s.stepIndex x).v = s.v := by
  unfold State.stepIndex
  split <;> rfl

@[simp] theorem State.stepIndex_pc (s : State) (x : RegIdx) : (s.stepIndex x).pc = s.pc := by
  unfold State.stepIndex
  split <;> rfl

@[simp] theorem State.stepIndex_stack (s : State) (x : RegIdx) : (s.stepIndex x).stack = s.stack := by
  unfold State.stepIndex
  split <;> rfl

@[simp] theorem State.stepIndex_fb (s : State) (x : RegIdx) : (s.stepIndex x).fb = s.fb := by
  unfold State.stepIndex
  split <;> rfl

@[simp] theorem State.stepIndex_dt (s : State) (x : RegIdx) : (s.stepIndex x).dt = s.dt := by
  unfold State.stepIndex
  split <;> rfl

@[simp] theorem State.stepIndex_st (s : State) (x : RegIdx) : (s.stepIndex x).st = s.st := by
  unfold State.stepIndex
  split <;> rfl

@[simp] theorem State.stepIndex_keys (s : State) (x : RegIdx) : (s.stepIndex x).keys = s.keys := by
  unfold State.stepIndex
  split <;> rfl

@[simp] theorem State.stepIndex_keyPrev (s : State) (x : RegIdx) : (s.stepIndex x).keyPrev = s.keyPrev := by
  unfold State.stepIndex
  split <;> rfl

@[simp] theorem State.stepIndex_cpu (s : State) (x : RegIdx) : (s.stepIndex x).cpu = s.cpu := by
  unfold State.stepIndex
  split <;> rfl

@[simp] theorem State.stepIndex_status (s : State) (x : RegIdx) : (s.stepIndex x).status = s.status := by
  unfold State.stepIndex
  split <;> rfl

@[simp] theorem State.stepIndex_beep (s : State) (x : RegIdx) : (s.stepIndex x).beep = s.beep := by
  unfold State.stepIndex
  split <;> rfl

@[simp] theorem State.stepIndex_loadOpen (s : State) (x : RegIdx) : (s.stepIndex x).loadOpen = s.loadOpen := by
  unfold State.stepIndex
  split <;> rfl

@[simp] theorem State.stepIndex_inputs (s : State) (x : RegIdx) : (s.stepIndex x).inputs = s.inputs := by
  unfold State.stepIndex
  split <;> rfl

@[simp] theorem State.stepIndex_memRead (s : State) (x : RegIdx) (q : Nat) : (s.stepIndex x).memRead q = s.memRead q := by
  unfold State.stepIndex
  split <;> simp

@[simp] theorem State.stepIndex_memWritten (s : State) (x : RegIdx) (q : Nat) : (s.stepIndex x).memWritten q = s.memWritten q := by
  unfold State.stepIndex
  split <;> simp

@[simp] theorem State.stepIndex_readReg (s : State) (x : RegIdx) (q : RegIdx) : (s.stepIndex x).readReg q = s.readReg q := by
  unfold State.stepIndex
  split <;> simp

@[simp] theorem State.stepIndex_regWritten (s : State) (x : RegIdx) (q : RegIdx) : (s.stepIndex x).regWritten q = s.regWritten q := by
  unfold State.stepIndex
  split <;> simp

@[simp] theorem State.stepIndex_delayWritten (s : State) (x : RegIdx) : (s.stepIndex x).delayWritten = s.delayWritten := by
  unfold State.stepIndex
  split <;> simp

@[simp] theorem State.stepIndex_soundWritten (s : State) (x : RegIdx) : (s.stepIndex x).soundWritten = s.soundWritten := by
  unfold State.stepIndex
  split <;> simp

theorem State.skipIf_pc (s : State) (c : Bool) : (s.skipIf c).pc = if c then pcValue (s.pc.toNat + 2) else s.pc := by
  unfold State.skipIf
  split <;> rfl

theorem State.readReg_writeLogic (s : State) (x q : RegIdx) (y : Byte) :
    (s.writeLogic x y).readReg q =
      if s.params.logicVfReset ∧ q = vf then 0 else if q = x then y else s.readReg q := by
  unfold State.writeLogic
  cases s.params.logicVfReset
  · simp [State.readReg_writeReg, @eq_comm _ x q]
  · simp [State.readReg_writeWithFlag]

theorem State.regWritten_writeLogic (s : State) (x q : RegIdx) (y : Byte) :
    (s.writeLogic x y).regWritten q =
      (decide (s.params.logicVfReset = true ∧ q = vf) || (decide (q = x) || s.regWritten q)) := by
  unfold State.writeLogic
  cases s.params.logicVfReset
  · simp [State.regWritten_writeReg, @eq_comm _ x q]
  · simp [State.regWritten_writeWithFlag]

theorem State.stepIndex_i (s : State) (x : RegIdx) :
    (s.stepIndex x).i = if s.params.memIncrI then BitVec.ofNat 16 (s.i.toNat + x.val + 1) else s.i := by
  unfold State.stepIndex
  split <;> rfl

theorem State.stepIndex_indexWritten (s : State) (x : RegIdx) :
    (s.stepIndex x).indexWritten = (s.params.memIncrI || s.indexWritten) := by
  unfold State.stepIndex
  split <;> simp_all

/-! ## Blocks of registers, and the choice of a key -/

@[simp] theorem State.regsUpTo_length (s : State) (x : RegIdx) : (s.regsUpTo x).length = x.val + 1 := by
  simp [State.regsUpTo]

theorem State.regsUpTo_getElem (s : State) (x : RegIdx) (k : Nat) (hk : k < (s.regsUpTo x).length) :
    (s.regsUpTo x)[k] = s.readReg (Fin.ofNat 16 k) := by
  simp [State.regsUpTo]

theorem State.regsWrittenUpTo_iff (s : State) (x : RegIdx) :
    s.regsWrittenUpTo x = true ↔ ∀ r ≤ x, s.regWritten r = true := by
  have hx := x.isLt
  simp only [State.regsWrittenUpTo, List.all_eq_true, List.mem_range]
  constructor
  · intro h r hr
    have hr' : r.val ≤ x.val := hr
    have e : Fin.ofNat 16 r.val = r := Fin.ext (Nat.mod_eq_of_lt r.isLt)
    simpa only [e] using h r.val (by omega)
  · intro h k hk
    refine h _ ?_
    show k % 16 ≤ x.val
    omega

/-- Whatever the draw, `choose_key` gives an element of the set (44 R191). -/
theorem chooseKey_mem (k : RegIdx) (rest : List RegIdx) (d : Nat) : chooseKey k rest d ∈ k :: rest := by
  unfold chooseKey
  split
  · simp
  · rename_i r rs
    have h : d % (rs.length + 2) < (k :: r :: rs).length := by
      exact Nat.mod_lt d (by omega : 0 < rs.length + 2)
    rw [List.getD_eq_getElem _ _ h]
    exact List.getElem_mem _

/-! ## Condition checks -/

/-- Everything `whenReadable` can do. -/
theorem State.whenReadable_cases (s : State) (i : Instr) (t : State) :
    (s.readable i = true ∧ s.whenReadable i t = .next t) ∨
      (s.readable i = false ∧ s.whenReadable i t = .next (s.raise .unwrittenRead (encode i))) := by
  unfold State.whenReadable
  cases h : s.readable i
  · exact .inr ⟨rfl, by simp⟩
  · exact .inl ⟨rfl, by simp⟩

theorem State.whenReadable_of_readable {s : State} {i : Instr} (h : s.readable i = true) (t : State) :
    s.whenReadable i t = .next t := by
  simp [State.whenReadable, h]

/-- Under `RESET_POLICY = zero` every register holds a value (10 R42). -/
theorem State.regWritten_of_zero {s : State} (h : s.params.resetPolicy = .zero) (r : RegIdx) :
    s.regWritten r = true := by
  simp [State.regWritten, State.tracksWrites, h]

/-- Under `RESET_POLICY = zero` every byte holds a value (10 R42). -/
theorem State.memWritten_of_zero {s : State} (h : s.params.resetPolicy = .zero) (a : Nat) : s.memWritten a = true := by
  simp [State.memWritten, State.tracksWrites, h]

/-- Everything `raise` can do to the run state (60 R206). -/
theorem State.raise_cpu (s : State) (c : Condition) (w : Word) :
    (s.params.onCondition = .halt ∧ (s.raise c w).cpu = .halted) ∨
      (s.params.onCondition = .proceed ∧ (s.raise c w).cpu = s.cpu) := by
  unfold State.raise
  cases h : s.params.onCondition
  · exact .inl ⟨rfl, rfl⟩
  · exact .inr ⟨rfl, rfl⟩

/-! ## The program counter -/

@[simp] theorem pcValue_toNat (a : Nat) : (pcValue a).toNat = a % 4096 := by
  simp only [pcValue, BitVec.toNat_ofNat]
  omega

theorem pcValue_lt (a : Nat) : (pcValue a).toNat < 4096 := by
  rw [pcValue_toNat]
  exact Nat.mod_lt _ (by decide)

end Sys2Proof.Machine
end

