-- ==== Sys2Proof/Laws/Tick.lean ====
section
/-! SUPPORT. The step: one lemma for each case of the tick and of the fetch, and that every instruction answers a next
state. -/

namespace Sys2Proof.Machine

/-- The two bytes of the fetched word are those at `PC` and `PC + 1` (30 R83). -/
theorem State.fetchedByte_eq (s : State) {j : Nat} (hj : j < 2) : s.fetchedByte j = s.memRead (s.pc.toNat + j) := by
  have h := (s.memRead (s.pc.toNat + 1)).isLt
  apply BitVec.eq_of_toNat_eq
  interval_cases j
  · show (highByte s.fetchWord).toNat = (s.memRead s.pc.toNat).toNat
    rw [highByte_toNat, State.fetchWord, wordOfBytes_toNat]
    omega
  · show (lowByte s.fetchWord).toNat = _
    rw [lowByte_toNat, State.fetchWord, wordOfBytes_toNat]
    omega

theorem step_of_legal {s : State} (h : s.params.wf = true) : step s = nextMove s := by
  simp [step, h]

theorem nextMove_of_empty {s : State} (h : s.inputs.moves = []) : nextMove s = instrTick s := by
  simp [nextMove, h]

theorem nextMove_of_move {s : State} {m : HostMove} {rest : List HostMove} (h : s.inputs.moves = m :: rest) :
    nextMove s = agentMove m (s.withMoves rest) := by
  simp [nextMove, h]

/-- Whether the tick is queued or not, a step of a legal core whose next move it is runs it. -/
theorem step_of_ticksThen {s : State} {rest : List HostMove} (h : s.params.wf = true) (ht : s.ticksThen rest) :
    step s = instrTick (s.withMoves rest) := by
  rw [step_of_legal h]
  rcases ht with hm | ⟨hm, rfl⟩
  · exact nextMove_of_move hm
  · rw [nextMove_of_empty hm]
    congr 1
    simp only [State.withMoves, ← hm]

theorem instrTick_of_ready {s : State} (h : s.cpu = .ready) : instrTick s = fetchDecodeExecute s.closeLoad := by
  simp [instrTick, h]

theorem instrTick_of_waiting {s : State} {x : RegIdx} (h : s.cpu = .waiting x) :
    instrTick s = .next (s.closeLoad.keyWaitPoll x) := by
  simp [instrTick, h]

theorem instrTick_of_halted {s : State} (h : s.cpu = .halted) : instrTick s = .next s.closeLoad.reportHalted := by
  simp [instrTick, h]

/-- Everything a fetch can do. -/
theorem fetchDecodeExecute_cases (s : State) :
    (s.fetchReadable = false ∧ fetchDecodeExecute s = .next (s.afterFetch.raise .unwrittenRead s.pc)) ∨
      (s.fetchReadable = true ∧ (∃ r, decode s.params.opset s.fetchWord = .error r) ∧
        fetchDecodeExecute s = .next (s.afterFetch.raise .unimplemented s.fetchWord)) ∨
      (s.fetchReadable = true ∧ ∃ i, decode s.params.opset s.fetchWord = .ok i ∧
        fetchDecodeExecute s = exec i s.afterFetch) := by
  unfold fetchDecodeExecute
  cases hf : s.fetchReadable
  · exact .inl ⟨rfl, by simp⟩
  · cases hd : decode s.params.opset s.fetchWord with
    | ok i => exact .inr (.inr ⟨rfl, i, rfl, by simp⟩)
    | error r => exact .inr (.inl ⟨rfl, ⟨r, rfl⟩, by simp⟩)

/-- Every instruction answers a next state: no operand stops the machine. -/
theorem exec_answers_next (i : Instr) (s : State) : ∃ t, exec i s = .next t := by
  cases i
  case ret =>
    simp only [exec, execRet]
    split <;> exact ⟨_, rfl⟩
  case call nnn =>
    simp only [exec, execCall]
    split <;> exact ⟨_, rfl⟩
  case ldVxK x =>
    simp only [exec, execLdVxK]
    split <;> exact ⟨_, rfl⟩
  all_goals exact ⟨_, rfl⟩

theorem instrTick_answers_next (s : State) : ∃ t, instrTick s = .next t := by
  cases h : s.cpu with
  | halted => exact ⟨_, instrTick_of_halted h⟩
  | waiting x => exact ⟨_, instrTick_of_waiting h⟩
  | ready =>
    rw [instrTick_of_ready h]
    rcases fetchDecodeExecute_cases s.closeLoad with ⟨-, e⟩ | ⟨-, -, e⟩ | ⟨-, i, -, e⟩
    · exact ⟨_, e⟩
    · exact ⟨_, e⟩
    · rw [e]
      exact exec_answers_next i _

end Sys2Proof.Machine
end

