-- ==== Sys2Proof/Machine/Asm.lean ====
section
/-! DEFINITION. The assembler text of an instruction (spec 30 R86, R95): the mnemonic, then the operands separated by
a comma and a space. No step depends on it. -/

namespace Sys2Proof.Machine

/-- The hexadecimal digits. -/
def hexDigits : List String :=
  ["0", "1", "2", "3", "4", "5", "6", "7", "8", "9", "A", "B", "C", "D", "E", "F"]

/-- One hexadecimal digit: the low nibble of a number. -/
def hexDigit (n : Nat) : String := hexDigits.getD (n % 16) "0"

/-- An 8-bit number, `0x` and two digits (00 R12). -/
def hexByte (b : Byte) : String := "0x" ++ hexDigit (b.toNat / 16) ++ hexDigit b.toNat

/-- A 12-bit number, `0x` and three digits (00 R12). -/
def hexAddr (a : Addr) : String :=
  "0x" ++ hexDigit (a.toNat / 256) ++ hexDigit (a.toNat / 16) ++ hexDigit a.toNat

/-- A 4-bit number in decimal, as the listings of 95 write the row count (00 R12). -/
def decNibble (n : Fin 16) : String :=
  if n.val < 10 then hexDigit n.val else "1" ++ hexDigit (n.val - 10)

/-- `V0` to `VF` (R95). -/
def regName (r : RegIdx) : String := "V" ++ hexDigit r.val

/-- A mnemonic with one operand. -/
def asm1 (m a : String) : String := m ++ " " ++ a

/-- A mnemonic with two operands (R95). -/
def asm2 (m a b : String) : String := m ++ " " ++ a ++ ", " ++ b

/-- The text of an instruction (R86, R95). -/
def asmText : Instr → String
  | .cls => "CLS"
  | .ret => "RET"
  | .jp nnn => asm1 "JP" (hexAddr nnn)
  | .call nnn => asm1 "CALL" (hexAddr nnn)
  | .seImm x nn => asm2 "SE" (regName x) (hexByte nn)
  | .sneImm x nn => asm2 "SNE" (regName x) (hexByte nn)
  | .seReg x y => asm2 "SE" (regName x) (regName y)
  | .ldImm x nn => asm2 "LD" (regName x) (hexByte nn)
  | .addImm x nn => asm2 "ADD" (regName x) (hexByte nn)
  | .ldReg x y => asm2 "LD" (regName x) (regName y)
  | .orReg x y => asm2 "OR" (regName x) (regName y)
  | .andReg x y => asm2 "AND" (regName x) (regName y)
  | .xorReg x y => asm2 "XOR" (regName x) (regName y)
  | .addReg x y => asm2 "ADD" (regName x) (regName y)
  | .subReg x y => asm2 "SUB" (regName x) (regName y)
  | .shr x y => asm2 "SHR" (regName x) (regName y)
  | .subnReg x y => asm2 "SUBN" (regName x) (regName y)
  | .shl x y => asm2 "SHL" (regName x) (regName y)
  | .sneReg x y => asm2 "SNE" (regName x) (regName y)
  | .ldI nnn => asm2 "LD" "I" (hexAddr nnn)
  | .jpOffset nnn => asm2 "JP" "V0" (hexAddr nnn)
  | .rnd x nn => asm2 "RND" (regName x) (hexByte nn)
  | .drw x y n => asm2 "DRW" (regName x) (regName y) ++ ", " ++ decNibble n
  | .skp x => asm1 "SKP" (regName x)
  | .sknp x => asm1 "SKNP" (regName x)
  | .ldVxDt x => asm2 "LD" (regName x) "DT"
  | .ldVxK x => asm2 "LD" (regName x) "K"
  | .ldDtVx x => asm2 "LD" "DT" (regName x)
  | .ldStVx x => asm2 "LD" "ST" (regName x)
  | .addI x => asm2 "ADD" "I" (regName x)
  | .ldFont x => asm2 "LD" "F" (regName x)
  | .ldBcd x => asm2 "LD" "B" (regName x)
  | .storeRegs x => asm2 "LD" "[I]" (regName x)
  | .loadRegs x => asm2 "LD" (regName x) "[I]"

end Sys2Proof.Machine
end

