-- ==== Sys2Proof/Tests/Slice0.lean ====
section
/-! SUPPORT. Small tests: the vectors of spec 95 (worked by hand from the rules), words written out from the encodings
of 30 R80 to R92, and the checks of WellFormed. -/

namespace Sys2Proof.Tests

open Sys2Proof Sys2Proof.Machine

/-! ## WellFormed refuses ill-formed terms -/

/-- R91: 00EE is not one of the six operations of `min6`. -/
theorem test_wf_min6_has_no_ret : Instr.wf .min6 .ret = false := by decide

/-- R91: DXYN is. -/
theorem test_wf_min6_has_drw : Instr.wf .min6 (.drw 1 2 5) = true := by decide

/-- R9: `FONT_BASE + 80 <= 0x200`. -/
theorem test_wf_font_outside_refused : Params.fontFits { Params.defaults with fontBase := 0x1B1#12 } = false := by
  decide

theorem test_wf_font_at_the_edge : Params.wf { Params.defaults with fontBase := 0x1B0#12 } = true := by decide

/-- R9: `STACK_CAP` is positive. -/
theorem test_wf_cap_zero_refused : Params.capPositive { Params.defaults with stackCap := some 0 } = false := by decide

/-- R232: 3584 bytes fit, 3585 do not. -/
theorem test_wf_image_too_long : imageFits (List.replicate 3585 0) = false := by
  rw [imageFits, List.length_replicate]; decide

theorem test_wf_image_longest : imageFits (List.replicate 3584 0) = true := by
  rw [imageFits, List.length_replicate]; decide

/-! ## Decoding: a word of every row, written out from its encoding -/

theorem test_decode_cls : decode .full 0x00E0#16 = .ok .cls := by decide
theorem test_decode_ret : decode .full 0x00EE#16 = .ok .ret := by decide
theorem test_decode_jp : decode .full 0b0001001000101000#16 = .ok (.jp 0x228) := by decide
theorem test_decode_call : decode .full 0b0010001100000000#16 = .ok (.call 0x300) := by decide
theorem test_decode_seImm : decode .full 0b0011001100010000#16 = .ok (.seImm 3 0x10) := by decide
theorem test_decode_sneImm : decode .full 0b0100001100010001#16 = .ok (.sneImm 3 0x11) := by decide
theorem test_decode_seReg : decode .full 0b0101000100100000#16 = .ok (.seReg 1 2) := by decide
theorem test_decode_ldImm : decode .full 0b0110000000001010#16 = .ok (.ldImm 0 0x0A) := by decide
theorem test_decode_addImm : decode .full 0b0111001000100000#16 = .ok (.addImm 2 0x20) := by decide
theorem test_decode_ldReg : decode .full 0b1000000101010000#16 = .ok (.ldReg 1 5) := by decide
theorem test_decode_orReg : decode .full 0b1000000100100001#16 = .ok (.orReg 1 2) := by decide
theorem test_decode_andReg : decode .full 0b1000000100100010#16 = .ok (.andReg 1 2) := by decide
theorem test_decode_xorReg : decode .full 0b1000000100100011#16 = .ok (.xorReg 1 2) := by decide
theorem test_decode_addReg : decode .full 0b1000000100100100#16 = .ok (.addReg 1 2) := by decide
theorem test_decode_subReg : decode .full 0b1000000100100101#16 = .ok (.subReg 1 2) := by decide
theorem test_decode_shr : decode .full 0b1000000100100110#16 = .ok (.shr 1 2) := by decide
theorem test_decode_subnReg : decode .full 0b1000000100100111#16 = .ok (.subnReg 1 2) := by decide
theorem test_decode_shl : decode .full 0b1000000100101110#16 = .ok (.shl 1 2) := by decide
theorem test_decode_sneReg : decode .full 0b1001000100100000#16 = .ok (.sneReg 1 2) := by decide
theorem test_decode_ldI : decode .full 0b1010000001010000#16 = .ok (.ldI 0x050) := by decide
theorem test_decode_jpOffset : decode .full 0b1011001100000000#16 = .ok (.jpOffset 0x300) := by decide
theorem test_decode_rnd : decode .full 0b1100001100001111#16 = .ok (.rnd 3 0x0F) := by decide
theorem test_decode_drw : decode .full 0b1101000100101111#16 = .ok (.drw 1 2 15) := by decide
theorem test_decode_skp : decode .full 0b1110010110011110#16 = .ok (.skp 5) := by decide
theorem test_decode_sknp : decode .full 0b1110010110100001#16 = .ok (.sknp 5) := by decide
theorem test_decode_ldVxDt : decode .full 0b1111001100000111#16 = .ok (.ldVxDt 3) := by decide
theorem test_decode_ldVxK : decode .full 0b1111001000001010#16 = .ok (.ldVxK 2) := by decide
theorem test_decode_ldDtVx : decode .full 0b1111000100010101#16 = .ok (.ldDtVx 1) := by decide
theorem test_decode_ldStVx : decode .full 0b1111000100011000#16 = .ok (.ldStVx 1) := by decide
theorem test_decode_addI : decode .full 0b1111010000011110#16 = .ok (.addI 4) := by decide
theorem test_decode_ldFont : decode .full 0b1111001000101001#16 = .ok (.ldFont 2) := by decide
theorem test_decode_ldBcd : decode .full 0b1111000100110011#16 = .ok (.ldBcd 1) := by decide
theorem test_decode_storeRegs : decode .full 0b1111001001010101#16 = .ok (.storeRegs 2) := by decide
theorem test_decode_loadRegs : decode .full 0b1111000101100101#16 = .ok (.loadRegs 1) := by decide

/-- The words a build does not decode, of a list. -/
def rejected (o : OpSet) (ws : List Word) : List Word :=
  ws.filter fun w => match decode o w with
    | .ok _ => false
    | .error r => r == .unimplemented w

/-- T5 to T9: words that do not decode. -/
theorem test_decode_unimplemented_00_59 : rejected .full [0x0000, 0x00E1, 0x00EF, 0x0123, 0x5121, 0x912F] =
    [0x0000, 0x00E1, 0x00EF, 0x0123, 0x5121, 0x912F] := by decide

theorem test_decode_unimplemented_8EF :
    rejected .full [0x8128, 0x812C, 0x812F, 0xE19F, 0xE1A0, 0xF100, 0xF119, 0xF1FF] =
      [0x8128, 0x812C, 0x812F, 0xE19F, 0xE1A0, 0xF100, 0xF119, 0xF1FF] := by decide

/-- T10. -/
theorem test_decode_min6_rejects : rejected .min6 [0x00EE, 0x2300, 0x8124, 0xF155] = [0x00EE, 0x2300, 0x8124, 0xF155] := by
  decide

/-- T11. -/
theorem test_decode_min6_accepts : rejected .min6 [0x00E0, 0x1234, 0x6A01, 0x7A01, 0xA123, 0xD125] = [] := by decide

/-- R94: two bytes, high byte first, and the rest is left. -/
theorem test_decodeBytes_rest : decodeBytes .full [0x61, 0x23, 0xFF] = .ok (.ldImm 1 0x23, [0xFF]) := by decide

theorem test_decodeBytes_truncated : decodeBytes .full [0x61] = .error .truncated := by decide

/-- R86: 34 operations. -/
theorem test_table_has_34_rows : opcodeTable.length = 34 := by decide

/-- No word belongs to two rows (R86: exactly one operation): two rows differ on a bit that both fix. -/
theorem test_table_rows_disjoint :
    opcodeTable.Pairwise fun r q => (r.pattern ^^^ q.pattern) &&& r.mask &&& q.mask ≠ 0#16 := by decide

theorem test_decodeTableWord : decodeTableWord 16 0xD12F = some (.drw 1 2 15) := by decide

/-- P2's listing. -/
theorem test_asm_drw : asmText (.drw 3 4 5) = "DRW V3, V4, 5" := by decide
theorem test_asm_ldImm : asmText (.ldImm 0 0x0A) = "LD V0, 0x0A" := by decide
theorem test_asm_loadRegs : asmText (.loadRegs 2) = "LD V2, [I]" := by decide

/-! ## Helpers -/

/-- Reset, with registers 0, 1, 2 and 15 set. -/
def regs (a b c f : Byte) : State :=
  (((State.reset.writeReg 0 a).writeReg 1 b).writeReg 2 c).writeReg 15 f

/-- One step that fetches the word `w`, seen through `f`. -/
def after {α : Type} (s : State) (w : Nat) (f : State → α) : Option α :=
  match step (s.withFetchWord 16 w) with
  | .next t => some (f t)
  | .fault _ => none
  | .refused _ => none

/-- One step of `s`, seen through `f`. -/
def one {α : Type} (s : State) (f : State → α) : Option α :=
  match step s with
  | .next t => some (f t)
  | .fault _ => none
  | .refused _ => none

/-- Reset in a build with other parameters. -/
def resetBuild (f : Params → Params) : State := State.resetWith (f Params.defaults)

/-! ## Fetch (T2, T3, T4) -/

theorem test_T2_fetch_wraps :
    after { State.reset with pc := 0x0FFF#16 } 0x6123 (fun t => (t.readReg 1, t.pc)) = some (0x23, 0x001) := by decide

theorem test_T4_odd_pc :
    after { State.reset with pc := 0x0201#16 } 0x6007 (fun t => (t.readReg 0, t.pc)) = some (0x07, 0x203) := by decide

/-! ## Control transfer (T20 to T40) -/

theorem test_T20_ret :
    after { State.reset with pc := 0x0300#16, stack := [0x206] } 0x00EE (fun t => (t.pc, t.stack)) =
      some (0x206, []) := by decide

theorem test_T21_ret_underflow :
    after { State.reset with pc := 0x0300#16 } 0x00EE (fun t => (t.status, t.pc, t.cpu)) =
      some (⟨.reported .stackUnderflow, 0x00EE⟩, 0x302, .halted) := by decide

theorem test_S1_jp : after State.reset 0x1228 (fun t => t.pc) = some 0x228 := by decide

theorem test_T24_call_at_top :
    after { State.reset with pc := 0x0FFE#16 } 0x2400 (fun t => (t.pc, t.stack)) = some (0x400, [0x000]) := by decide

theorem test_T25_call_overflow :
    after { resetBuild (fun p => { p with stackCap := some 2 }) with pc := 0x0400#16, stack := [0x202, 0x302] } 0x2500
        (fun t => (t.status, t.pc, t.stack, t.cpu)) =
      some (⟨.reported .stackOverflow, 0x2500⟩, 0x402, [0x202, 0x302], .halted) := by decide

theorem test_T27_seImm : after (regs 0 0x10 0 0) 0x3110 (fun t => t.pc) = some 0x204 := by decide
theorem test_T30_seImm_at_top :
    after { State.reset with pc := 0x0FFE#16 } 0x3000 (fun t => t.pc) = some 0x002 := by decide
theorem test_T31_sneImm : after (regs 0 0x10 0 0) 0x4111 (fun t => t.pc) = some 0x204 := by decide
theorem test_T32_sneImm : after (regs 0 0x10 0 0) 0x4110 (fun t => t.pc) = some 0x202 := by decide
theorem test_T33_seReg : after (regs 0 7 0 0) 0x5110 (fun t => t.pc) = some 0x204 := by decide
theorem test_T34_seReg : after (regs 0 7 8 0) 0x5120 (fun t => t.pc) = some 0x202 := by decide
theorem test_T35_sneReg : after (regs 0 7 8 0) 0x9110 (fun t => t.pc) = some 0x202 := by decide
theorem test_T36_sneReg : after (regs 0 7 8 0) 0x9120 (fun t => t.pc) = some 0x204 := by decide
theorem test_T38_jpOffset : after (regs 0xFF 0 0 0) 0xBFFF (fun t => t.pc) = some 0x0FE := by decide
theorem test_T39_jpOffset_vx :
    after ((resetBuild (fun p => { p with jumpOffsetReg := .vx })).writeReg 3 0x10) 0xB300 (fun t => t.pc) =
      some 0x310 := by decide

/-! ## Register and ALU operations (T50 to T85) -/

theorem test_S6_ldImm : after State.reset 0x600A (fun t => (t.readReg 0, t.pc)) = some (0x0A, 0x202) := by decide
theorem test_T51_addImm : after (regs 0 0 0xFF 0x55) 0x7201 (fun t => (t.readReg 2, t.readReg 15)) =
    some (0x00, 0x55) := by decide
theorem test_S2_addImm_vf : after (regs 0 0 0 0x10) 0x7F05 (fun t => t.readReg 15) = some 0x15 := by decide
theorem test_T53_ldReg : after (regs 0 0 0x33 0) 0x8120 (fun t => t.readReg 1) = some 0x33 := by decide
theorem test_T56_or_vf : after (regs 0 0 0xF0 0x0F) 0x8F21 (fun t => t.readReg 15) = some 0x00 := by decide
theorem test_T58_or_reads_vf : after (regs 0 0x01 0 0x80) 0x81F1 (fun t => (t.readReg 1, t.readReg 15)) =
    some (0x81, 0x00) := by decide
theorem test_T59_and : after (regs 0 0x3C 0x0F 5) 0x8122 (fun t => (t.readReg 1, t.readReg 15)) =
    some (0x0C, 0x00) := by decide
theorem test_T60_xor : after (regs 0 0x5A 0 5) 0x8113 (fun t => (t.readReg 1, t.readReg 15)) = some (0, 0) := by decide
theorem test_T65_add_vf : after (regs 0 0x01 0 0xFF) 0x8F14 (fun t => t.readReg 15) = some 1 := by decide
theorem test_T61_add : after (regs 0 0xC8 0x64 0) 0x8124 (fun t => (t.readReg 1, t.readReg 15)) =
    some (0x2C, 1) := by decide
theorem test_T68_sub : after (regs 0 0x0A 0x0B 5) 0x8125 (fun t => (t.readReg 1, t.readReg 15)) =
    some (0xFF, 0) := by decide
theorem test_T69_sub_equal : after (regs 0 5 5 0) 0x8125 (fun t => (t.readReg 1, t.readReg 15)) = some (0, 1) := by
  decide
theorem test_T72_shr : after (regs 0 0 5 0) 0x8126 (fun t => (t.readReg 1, t.readReg 15)) = some (2, 1) := by decide
theorem test_T73_shr_vx :
    after ((resetBuild (fun p => { p with shiftSrc := .vx })).writeReg 2 5) 0x8126
      (fun t => (t.readReg 1, t.readReg 15)) = some (0, 0) := by decide
theorem test_T78_subn : after (regs 0 1 0 5) 0x8127 (fun t => (t.readReg 1, t.readReg 15)) = some (0xFF, 0) := by
  decide
theorem test_T80_shl : after (regs 0 0 0x81 0) 0x812E (fun t => (t.readReg 1, t.readReg 15)) = some (0x02, 1) := by
  decide
theorem test_T83_rnd :
    after { State.reset with inputs := { Inputs.none with rand := [0xA7] } } 0xC30F (fun t => t.readReg 3) =
      some 0x07 := by decide

/-! ## Index register and memory (T100 to T118) -/

theorem test_T100_ldI : after { State.reset with i := 0x1234#16 } 0xAFFF (fun t => t.i) = some 0x0FFF := by decide
theorem test_T102_addI : after { regs 1 0 0 0 with i := 0x0FFF#16 } 0xF01E (fun t => (t.i, t.readReg 15)) =
    some (0x1000, 0) := by decide
theorem test_T105_ldFont : after (regs 0 0 0x1A 0) 0xF229 (fun t => t.i) = some 0x0082 := by decide
theorem test_T111_bcd_wraps :
    after { regs 0x7B 0 0 0 with i := 0x0FFF#16 } 0xF033
      (fun t => (t.memRead 0xFFF, t.memRead 0x000, t.memRead 0x001, t.i)) = some (1, 2, 3, 0x0FFF) := by decide
theorem test_T112_storeRegs :
    after { regs 1 2 3 0 with i := 0x0400#16 } 0xF255
      (fun t => (t.memReadList 0x400 4, t.i)) = some ([1, 2, 3, 0], 0x0403) := by decide
theorem test_T113_storeRegs_keeps_i :
    after { resetBuild (fun p => { p with memIncrI := false }) with i := 0x0400#16 } 0xF255 (fun t => t.i) =
      some 0x0400 := by decide
theorem test_T118_loadRegs_font :
    after { State.reset with i := 0x0050#16 } 0xF465
      (fun t => (t.readReg 0, t.readReg 1, t.readReg 4, t.readReg 5, t.i)) = some (0xF0, 0x90, 0xF0, 0, 0x0055) := by
  decide

/-! ## Display (T130 to T139) -/

/-- The on pixels of a row. -/
def rowOn (t : State) (r : Fin 32) : List Nat := ((List.finRange 64).filter fun c => t.fbPix r c).map Fin.val

theorem test_T136_drw_collides :
    after { State.reset.memWrite 0x300 0x18 with
        i := 0x0300#16, fb := (drawSprite Framebuffer.blank 0 0 [0xFF]).1 } 0xD011
      (fun t => (rowOn t 0, t.readReg 15)) = some ([0, 1, 2, 5, 6, 7], 1) := by decide

theorem test_T131_drw_wraps_columns :
    after { (regs 60 0 0 0).memWrite 0x300 0xFF with i := 0x0300#16 } 0xD011
      (fun t => (rowOn t 0, rowOn t 1)) = some ([0, 1, 2, 3, 60, 61, 62, 63], []) := by decide

theorem test_T130_cls :
    after { regs 0 0 0 7 with fb := (drawSprite Framebuffer.blank 0 0 [0xFF]).1 } 0x00E0
      (fun t => (rowOn t 0, t.readReg 15)) = some ([], 7) := by decide

/-! ## Timers and keys (T150 to T171) -/

theorem test_T152_timer_tick :
    one { State.reset with dt := 0x3C, st := 1, inputs := { Inputs.none with moves := [.timerTick] } }
      (fun t => (t.dt, t.st, t.beep, t.pc)) = some (0x3B, 0, true, 0x200) := by decide

theorem test_T150_timer_tick_at_zero :
    one { State.reset with beep := true, inputs := { Inputs.none with moves := [.timerTick] } }
      (fun t => (t.dt, t.st, t.beep)) = some (0, 0, false) := by decide

theorem test_R188_ldVxDt : after { State.reset with dt := 0x3C } 0xF307 (fun t => t.readReg 3) = some 0x3C := by decide
theorem test_R189_ldDtVx : after (regs 0 0x3C 0 0) 0xF115 (fun t => (t.dt, t.st)) = some (0x3C, 0) := by decide
theorem test_R190_ldStVx : after (regs 0 2 0 0) 0xF118 (fun t => (t.dt, t.st, t.beep)) = some (0, 2, false) := by decide

theorem test_T159_skp : after { regs 0 0x1C 0 0 with keys := 0x1000#16 } 0xE19E (fun t => t.pc) = some 0x204 := by
  decide
theorem test_T158_skp : after (regs 0 0x0C 0 0) 0xE19E (fun t => t.pc) = some 0x202 := by decide
theorem test_T160_sknp : after (regs 0 0x0C 0 0) 0xE1A1 (fun t => t.pc) = some 0x204 := by decide
theorem test_T161_sknp : after { regs 0 0x0C 0 0 with keys := 0x1000#16 } 0xE1A1 (fun t => t.pc) = some 0x202 := by
  decide

theorem test_T162_ldVxK :
    after { State.reset with keys := 0x0080#16 } 0xF20A (fun t => (t.readReg 2, t.pc, t.cpu, t.status.code)) =
      some (7, 0x202, .ready, .ok) := by decide

theorem test_T163_ldVxK_waits :
    after State.reset 0xF20A (fun t => (t.readReg 2, t.pc, t.cpu, t.statusPort, t.suspendedPort)) =
      some (0, 0x202, .waiting 2, 5, true) := by decide

theorem test_T165_poll_takes_a_key :
    one { State.reset with
        keys := 0x0208#16, cpu := .waiting 2, inputs := { Inputs.none with keyPicks := [1] } }
      (fun t => (t.readReg 2, t.pc, t.cpu)) = some (9, 0x200, .ready) := by decide

theorem test_T169_edge_poll_needs_a_new_press :
    one { resetBuild (fun p => { p with keyWait := .edge }) with
        keys := 0x0080#16, keyPrev := 0x0080#16, cpu := .waiting 2 }
      (fun t => (t.readReg 2, t.keyPrev, t.cpu)) = some (0, 0x0080, .waiting 2) := by decide

/-! ## Conditions and run states (T180 to T187) -/

theorem test_T180_unimplemented :
    after State.reset 0xFFFF (fun t => (t.status, t.pc, t.cpu)) =
      some (⟨.reported .unimplemented, 0xFFFF⟩, 0x202, .halted) := by decide

theorem test_T181_halted :
    one { State.reset with cpu := .halted, status := ⟨.reported .unimplemented, 0xFFFF⟩ }
      (fun t => (t.status, t.pc, t.statusPort)) = some (⟨.halted, 0xFFFF⟩, 0x200, 6) := by decide

/-- R42: a build in which nothing is written at reset. -/
def unwritten : State := resetBuild fun p => { p with resetPolicy := .unwrittenFaults }

theorem test_T184_unwritten_register :
    after unwritten 0x8014 (fun t => (t.status, t.pc, t.regWritten 0)) =
      some (⟨.reported .unwrittenRead, 0x8014⟩, 0x202, false) := by decide

theorem test_T185_unwritten_fetch :
    one { unwritten with pc := 0x0300#16 } (fun t => (t.status, t.pc)) =
      some (⟨.reported .unwrittenRead, 0x0300⟩, 0x302) := by decide

theorem test_T186_unwritten_block :
    after (((unwritten.writeIndex 0x300).memWrite 0x300 1).memWrite 0x301 2) 0xF265
      (fun t => (t.status.code, t.regWritten 0, t.i)) = some (.reported .unwrittenRead, false, 0x300) := by decide

theorem test_R42_unwritten_timer_stays :
    one { unwritten with st := 5, inputs := { Inputs.none with moves := [.timerTick] } }
      (fun t => (t.st, t.soundWritten, t.beep)) = some (5, false, false) := by decide

/-! ## Reset, loading and the ports (T190 to T194, R232) -/

theorem test_T191_glyph0 : State.reset.memReadList 0x50 5 = [0xF0, 0x90, 0x90, 0x90, 0xF0] := by decide
theorem test_T192_glyphF : State.reset.memReadList 0x9B 5 = [0xF0, 0x80, 0xF0, 0x80, 0x80] := by decide
theorem test_T193_zero_elsewhere :
    [0x04F, 0x0A0, 0x000, 0x1FF, 0xFFF].map State.reset.memRead = [0, 0, 0, 0, 0] := by decide

theorem test_R232_load :
    one { State.reset with inputs := { Inputs.none with moves := [.load [0x60, 0x0A]] } }
      (fun t => (t.fetchWord, t.loadOpen, t.memRead 0x202)) = some (0x600A, true, 0) := by decide

theorem test_R232_load_after_start :
    step { State.reset with loadOpen := false, inputs := { Inputs.none with moves := [.loadByte 0x200 1] } } =
      .refused .loadAfterStart := by rfl

theorem test_R17_load_below_program_area :
    step { State.reset with inputs := { Inputs.none with moves := [.loadByte 0x1FF 1] } } =
      .refused .loadOutsideProgramArea := by rfl

theorem test_R230_rst_keeps_the_keys_input :
    one { regs 1 2 3 4 with cpu := .halted, keys := 5, inputs := { Inputs.none with moves := [.rst] } }
      (fun t => (t.readReg 1, t.cpu, t.keys, t.pc)) = some (0, .ready, 5, 0x200) := by decide

theorem test_R9_illegal_parameters :
    step (resetBuild fun p => { p with stackCap := some 0 }) = .fault .illegalParameters := by rfl

theorem test_reset_memory_canonical : Memory.wf State.reset.params.fontBase State.reset.mem = true := by decide

/-- T41: the end-of-run shape. -/
theorem test_R246_end_shape : (State.reset.placeWord 0x1200).endShape = true := by decide

/-! ## Witnesses: for each statement with hypotheses, a state and operands that meet all of them, for each clause at a
boundary of its range -/

/-- A core in the middle of a run: memory, registers and stack in use. -/
def busy : State :=
  { State.reset with
    mem := [(0x000, 0x34), (0xFFF, 0x12)], v := #v[1, 2, 3, 0, 0, 0, 0, 0, 0, 0, 0, 0, 0, 0, 0, 4],
    pc := 0x0FFE#16, i := 0xFFFF#16, stack := [0x0202, 0x0FFE], dt := 0xFF, st := 1, keys := 0x8001#16 }

/-- The same core with a queued move next. -/
def busyWith (m : HostMove) : State := { busy with inputs := { Inputs.none with moves := [m, .timerTick] } }

theorem busy_mem : Memory.wf busy.params.fontBase busy.mem = true := by decide

theorem busy_inv : busy.Inv :=
  ⟨by decide, busy_mem, by decide, by simp [busy], rfl, fun h => (by cases h), rfl, fun _ => rfl, fun _ => rfl, rfl,
    fun c _ => State.memWritten_of_zero rfl c.1⟩

theorem witness_DecodeInvertsEncode :
    Instr.wf .min6 (.drw 15 0 15) = true ∧ Instr.wf .full (.loadRegs 15) = true := by decide

theorem witness_EncodeInvertsDecode :
    decode .min6 0xDF0F#16 = .ok (.drw 15 0 15) ∧ decode .full 0xFF65#16 = .ok (.loadRegs 15) := by decide

theorem witness_PlainItypesAlwaysDecode :
    [0x1000, 0x2FFF, 0x3000, 0x4FFF, 0x6000, 0x7FFF, 0xA000, 0xBFFF, 0xC000, 0xDFFF].map fieldItype =
      [0x1#4, 0x2#4, 0x3#4, 0x4#4, 0x6#4, 0x7#4, 0xA#4, 0xB#4, 0xC#4, 0xD#4] := by decide

theorem witness_Min6DecodesItsSixOperations : decode .min6 0x1FFF#16 = .ok (.jp 0xFFF) := by decide

/-- The fetch wraps: the word at 0xFFF is 0x1234. -/
theorem witness_StepRunsTheDecodedInstruction :
    (∀ s ∈ [{ busy with pc := 0x0FFF#16 }, { busyWith .instrTick with pc := 0x0FFF#16 }],
      s.params.wf = true ∧ s.cpu = .ready ∧ s.memWritten s.pc.toNat = true ∧
        s.memWritten (s.pc.toNat + 1) = true ∧
        decodeBytes s.params.opset [s.memRead s.pc.toNat, s.memRead (s.pc.toNat + 1)] = .ok (.jp 0x234, [])) ∧
      busy.inputs.moves = [] ∧ (busyWith .instrTick).inputs.moves = .instrTick :: [.timerTick] := by decide

/-- With the tick queued, and with nothing queued. -/
theorem witness_UnimplementedWordIsReported :
    State.reset.fetches [] ∧ (State.reset.withMoves [.instrTick, .timerTick]).fetches [.timerTick] ∧
      ∀ s ∈ [State.reset, State.reset.withMoves [.instrTick, .timerTick]], ∀ i,
        decode s.params.opset s.fetchWord ≠ .ok i := by
  refine ⟨⟨by decide, .inr ⟨rfl, rfl⟩, rfl, by decide⟩, ⟨by decide, .inl rfl, rfl, by decide⟩, fun s hs i h => ?_⟩
  have e : ∀ s ∈ [State.reset, State.reset.withMoves [.instrTick, .timerTick]],
      decode s.params.opset s.fetchWord = .error (.unimplemented 0#16) := by decide
  rw [e s hs] at h
  cases h

/-- The first byte unwritten, and only the second: the font ends at 0x09F. -/
theorem witness_UnwrittenFetchIsReported :
    (unwritten.ticksThen [] ∧ (unwritten.withMoves [.instrTick, .timerTick]).ticksThen [.timerTick]) ∧
      (∀ s ∈ [unwritten, { unwritten with pc := 0x009F#16 }], s.params.wf = true ∧ s.cpu = .ready) ∧
      unwritten.memWritten unwritten.pc.toNat = false ∧ unwritten.memWritten 0x9F = true ∧
      unwritten.memWritten (0x9F + 1) = false :=
  ⟨⟨.inr ⟨rfl, rfl⟩, .inl rfl⟩, by decide⟩

theorem witness_ConditionsArePrecise :
    State.reset.conditionReported = false ∧
      ∃ t, exec .ret State.reset = .next t ∧ t.conditionReported = true :=
  ⟨by decide, _, rfl, by decide⟩

/-- A build in which `V1` and the byte at 0x301 have no value, and `I` is 0x300. -/
def halfWritten : State := ((unwritten.writeReg 0 1).writeIndex 0x300).memWrite 0x300 1

/-- A register, `I`, `DT` and a byte without a value; an instruction that reads only items with one; and `zero`. -/
theorem witness_UnwrittenReadStopsTheInstruction :
    ReadsUnwritten (.storeRegs 1) halfWritten ∧ ReadsUnwritten (.drw 0 0 0) (unwritten.writeReg 0 1) ∧
      ReadsUnwritten (.ldVxDt 0) halfWritten ∧ ReadsUnwritten (.loadRegs 1) halfWritten ∧
      (¬ ReadsUnwritten (.ldImm 15 0xFF) halfWritten ∧ halfWritten.status.code = .ok) ∧
      State.reset.params.resetPolicy = .zero := by
  refine ⟨.inl ⟨1, by decide, by decide⟩, .inr (.inl ⟨⟨0, 0, 0, .inl rfl⟩, by decide⟩),
    .inr (.inr (.inl ⟨⟨0, rfl⟩, by decide⟩)), .inr (.inr (.inr ⟨1, .inr ⟨1, rfl, by decide⟩, by decide⟩)),
    ⟨?_, by decide⟩, rfl⟩
  simp [ReadsUnwritten, regsReadBy, ReadsIndex, ReadsByte]

theorem witness_HaltedTickOnlyReports :
    ({ busy with cpu := .halted } : State).params.wf = true ∧ ({ busy with cpu := .halted } : State).ticksThen [] ∧
      ({ busyWith .instrTick with cpu := .halted } : State).ticksThen [.timerTick] :=
  ⟨by decide, .inr ⟨rfl, rfl⟩, .inl rfl⟩

theorem witness_OnlyResetLeavesHalted :
    (∀ rest, ({ busyWith .timerTick with cpu := .halted } : State).inputs.moves ≠ .rst :: rest) ∧
      (∃ t, step { busyWith .timerTick with cpu := .halted } = .next t) ∧
      ({ busyWith .timerTick with cpu := .halted } : State).loaderNext = false :=
  ⟨(fun _ h => by cases h), ⟨_, rfl⟩, rfl⟩

theorem witness_EveryStepAnswersNext :
    (busyWith .rst).params.wf = true ∧ (busyWith .rst).loaderNext = false ∧ busy.loaderNext = false := by decide

theorem witness_StepKeepsTheInvariant : busy.Inv ∧ ∃ t, step busy = .next t := ⟨busy_inv, _, rfl⟩

/-- A build at the edges of R9: the font as high as it goes, a stack of one entry, nothing written at reset. -/
def edgeParams : Params :=
  { Params.defaults with fontBase := 0x1B0#12, stackCap := some 1, resetPolicy := .unwrittenFaults }

theorem witness_ResetHasTheInvariant : edgeParams.wf = true := by decide

theorem witness_ResetSetsEveryField :
    (busyWith .rst).params.wf = true ∧ (busyWith .rst).inputs.moves = .rst :: [.timerTick] ∧
      edgeParams.resetPolicy = .unwrittenFaults := by decide

theorem witness_ResetMemoryHoldsTheFont :
    edgeParams.wf = true ∧ edgeParams.fontBase.toNat + 80 ≤ 0x200 ∧ 0x1AF < edgeParams.fontBase.toNat ∧
      ({ Params.defaults with fontBase := 0#12 } : Params).wf = true := by decide

/-- Images of 3584 and of 3585 bytes, and one after the first tick. -/
theorem witness_LoaderDepositsTheImage :
    (∀ image : List Byte, ∃ rest, (busyWith (.load image)).params.wf = true ∧
      Memory.wf (busyWith (.load image)).params.fontBase (busyWith (.load image)).mem = true ∧
      (busyWith (.load image)).inputs.moves = .load image :: rest ∧ (busyWith (.load image)).loadOpen = true) ∧
      (List.replicate 3584 (0xFF : Byte)).length ≤ 3584 ∧ 3584 < (List.replicate 3585 (0xFF : Byte)).length ∧
      ({ busyWith (.load [1]) with loadOpen := false } : State).inputs.moves = .load [1] :: [.timerTick] := by
  refine ⟨fun image => ⟨[.timerTick], rfl, ?_, rfl, rfl⟩, ?_, ?_, rfl⟩
  · exact busy_inv.mem_canonical
  · rw [List.length_replicate]
  · rw [List.length_replicate]; decide

theorem witness_LoaderPortWritesOneByte :
    (∀ a ∈ [0x200#12, 0x1FF#12], (busyWith (.loadByte a 7)).params.wf = true ∧
      Memory.wf (busyWith (.loadByte a 7)).params.fontBase (busyWith (.loadByte a 7)).mem = true ∧
      (busyWith (.loadByte a 7)).inputs.moves = .loadByte a 7 :: [.timerTick] ∧
      (busyWith (.loadByte a 7)).loadOpen = true) ∧
      0x200 ≤ (0x200#12).toNat ∧ (0x1FF#12).toNat < 0x200 ∧
      ({ busyWith (.loadByte 0x200 7) with loadOpen := false } : State).loadOpen = false := by decide

theorem witness_AddressesReduceModulo4096 : Memory.wf busy.params.fontBase busy.mem = true ∧ busy.mem ≠ [] := by decide

/-- The block at 0xFFFF lies over the word at 0xFFF; of the word at 0xFFE it covers the second byte only, and of that at
0x000 with `x = 1` the first only. -/
theorem witness_StoredBytesAreFetchedNext :
    Memory.wf busy.params.fontBase busy.mem = true ∧ busy.indexWritten = true ∧
      (∀ r ≤ (1 : RegIdx), busy.regWritten r = true) ∧
      decodeAddr (0xFFF + 1) = decodeAddr (busy.dataAddr 1) ∧ decodeAddr (0xFFE + 1) = decodeAddr (busy.dataAddr 0) ∧
      (∀ r ≤ (1 : RegIdx), decodeAddr (busy.pc.toNat + 0) ≠ decodeAddr (busy.dataAddr r.val)) ∧
      decodeAddr (0x000 + 0) = decodeAddr (busy.dataAddr 1) ∧
      (∀ r ≤ (1 : RegIdx), decodeAddr (0x000 + 1) ≠ decodeAddr (busy.dataAddr r.val)) ∧
      ∀ k < 3, decodeAddr (busy.pc.toNat + 0) ≠ decodeAddr (busy.dataAddr k) := by decide

/-- A stack with one free entry, and a full one. -/
theorem witness_CallPushesOrOverflows :
    (∀ cap, ({ busy with params := { busy.params with stackCap := some 3 } } : State).params.stackCap = some cap →
      busy.stack.length < cap) ∧
      ({ busy with params := { busy.params with stackCap := some 2 } } : State).params.stackCap =
        some busy.stack.length := by
  refine ⟨fun cap h => ?_, rfl⟩
  cases h
  decide

theorem witness_ReturnPopsOrUnderflows : busy.stack = [0x0202] ++ [0x0FFE] ∧ State.reset.stack = [] := by decide

theorem witness_ReturnUndoesCall :
    busy.pc.toNat < 4096 ∧ busy.stackFull = false ∧ ∃ t, exec (.call 0xFFF) busy = .next t :=
  ⟨by decide, rfl, _, rfl⟩

theorem witness_SkipsOnImmediate : busy.regWritten 15 = true ∧ busy.readReg 15 = 4 ∧ busy.readReg 15 ≠ 0xFF := by decide

theorem witness_SkipsOnRegisters :
    busy.regWritten 15 = true ∧ busy.regWritten 0 = true ∧ busy.readReg 15 = busy.readReg 15 ∧
      busy.readReg 15 ≠ busy.readReg 0 ∧ fieldItype 0x5001#16 = 0x5#4 ∧ fieldItype 0x9FFF#16 = 0x9#4 ∧
      fieldN 0x5001#16 ≠ 0#4 ∧ fieldN 0x9FFF#16 ≠ 0#4 := by decide

/-- Keys 0 and 15 are pressed; `VF` selects key 4, which is not. -/
theorem witness_SkipsOnKeys :
    (busy.writeReg 0 0xFF).regWritten 0 = true ∧
      busy.keys.getLsbD (((busy.writeReg 0 0xFF).readReg 0).toNat % 16) = true ∧ busy.regWritten 15 = true ∧
      busy.keys.getLsbD ((busy.readReg 15).toNat % 16) = false := by decide

theorem witness_JumpAddsTheOffsetRegister :
    (busy.params.jumpOffsetReg = .v0 ∧ (0 : RegIdx) = 0) ∧ busy.regWritten 0 = true ∧
      ({ busy with params := { busy.params with jumpOffsetReg := .vx } } : State).params.jumpOffsetReg = .vx ∧
      (15 : RegIdx).val = (0xFFF#12).toNat / 256 ∧
      ({ busy with params := { busy.params with jumpOffsetReg := .vx } } : State).regWritten 15 = true := by decide

/-- The one premise of the statements of the loads, the immediate addition and the carries: registers that hold a
value, `VF` among them. Under `unwritten_faults` a register holds one once it is written. -/
theorem witness_registers_hold_values :
    (∀ r : RegIdx, busy.regWritten r = true) ∧ (unwritten.writeReg 15 0xFF).regWritten 15 = true ∧
      unwritten.regWritten 15 = false := by decide

theorem witness_LoadsSetTheRegister : busy.regWritten 15 = true := by decide
theorem witness_AddImmediateWrapsWithoutFlag : busy.regWritten 15 = true := by decide

theorem witness_LogicCombinesBitwise :
    busy.regWritten 1 = true ∧ busy.regWritten 15 = true ∧ busy.params.logicVfReset = true ∧ (1 : RegIdx) ≠ vf ∧
      ({ busy with params := { busy.params with logicVfReset := false } } : State).params.logicVfReset = false ∧
      (15 : RegIdx) = vf := by decide

theorem witness_AddSetsCarry :
    busy.regWritten 1 = true ∧ busy.regWritten 15 = true ∧ (1 : RegIdx) ≠ vf ∧ (15 : RegIdx) = vf := by decide
theorem witness_SubtractionsSetNotBorrow :
    busy.regWritten 1 = true ∧ busy.regWritten 15 = true ∧ (1 : RegIdx) ≠ vf ∧ (15 : RegIdx) = vf := by decide

theorem witness_ShiftsMoveOneBit :
    (busy.params.shiftSrc = .vy ∧ busy.regWritten 2 = true) ∧
      ({ busy with params := { busy.params with shiftSrc := .vx } } : State).params.shiftSrc = .vx ∧
      ({ busy with params := { busy.params with shiftSrc := .vx } } : State).regWritten 1 = true ∧
      (1 : RegIdx) ≠ vf := by decide

theorem witness_IndexAddsAndFindsGlyphs : busy.regWritten 15 = true ∧ busy.indexWritten = true := by decide

/-- `I` is 0xFFFF: the addresses of the digits wrap. -/
theorem witness_BcdStoresThreeDigits :
    Memory.wf busy.params.fontBase busy.mem = true ∧ busy.regWritten 15 = true ∧ busy.indexWritten = true := by decide

theorem witness_StoreRegsWritesTheBlock :
    Memory.wf busy.params.fontBase busy.mem = true ∧ (∀ r ≤ (15 : RegIdx), busy.regWritten r = true) ∧
      busy.indexWritten = true ∧ busy.params.memIncrI = true ∧
      ({ busy with params := { busy.params with memIncrI := false } } : State).params.memIncrI = false := by decide

theorem witness_LoadRegsReadsTheBlock :
    busy.indexWritten = true ∧ (∀ r ≤ (15 : RegIdx), busy.memWritten (busy.dataAddr r.val) = true) ∧
      busy.params.memIncrI = true ∧ (14 : RegIdx) < 15 ∧
      ({ busy with params := { busy.params with memIncrI := false } } : State).params.memIncrI = false := by decide

theorem witness_SpriteFlipsCoveredPixels : (List.replicate 15 (0xFF : Byte)).length ≤ 15 := by decide

theorem witness_DrawWritesBufferAndFlag :
    busy.regWritten 14 = true ∧ busy.regWritten 15 = true ∧ busy.indexWritten = true ∧
      ∀ k < (15 : Fin 16).val, busy.memWritten (busy.dataAddr k) = true := by decide

theorem witness_TimerRegistersMove : busy.delayWritten = true ∧ busy.regWritten 15 = true := by decide

/-- `DT` is 255 and `ST` is 1; and a build in which neither has a value. -/
theorem witness_TimerTickCountsDown :
    (busyWith .timerTick).params.wf = true ∧ (busyWith .timerTick).inputs.moves = .timerTick :: [.timerTick] ∧
      (busyWith .timerTick).delayWritten = true ∧ (busyWith .timerTick).soundWritten = true ∧
      unwritten.delayWritten = false ∧ unwritten.soundWritten = false := by decide

theorem witness_TicksBeepUntilSoundIsZero :
    busy.delayWritten = true ∧ busy.soundWritten = true ∧ unwritten.soundWritten = false := by decide

theorem witness_DelayReadsBackAfterTicks : busy.regWritten 15 = true ∧ ∃ t, exec (.ldDtVx 15) busy = .next t :=
  ⟨by decide, _, rfl⟩

/-- The build with `KEY_WAIT = edge`. -/
def edgeBusy : State := { busy with params := { busy.params with keyWait := .edge }, keyPrev := 0x0001#16 }

theorem witness_KeyWaitCompletesOrSuspends :
    busy.cpu = .ready ∧ edgeBusy.cpu = .ready ∧ busy.params.keyWait = .level ∧ busy.keys ≠ 0 ∧
      ({ busy with keys := 0 } : State).keys = 0 ∧ edgeBusy.params.keyWait = .edge := by decide

/-- Key 15 is newly pressed, key 0 is held; and a wait in which no key is eligible. -/
theorem witness_KeyPollTakesAnEligibleKey :
    (edgeBusy.ticksThen [] ∧ (edgeBusy.withMoves [.instrTick, .timerTick]).ticksThen [.timerTick]) ∧
      (busy.params.keyWait = .level ∧ (0 : Word) = 0) ∧ (edgeBusy.params.keyWait = .edge ∧ edgeBusy.keyPrev = 1) ∧
      edgeBusy.params.wf = true ∧ ({ edgeBusy with cpu := .waiting 15 } : State).cpu = .waiting 15 ∧
      edgeBusy.keys &&& ~~~edgeBusy.keyPrev ≠ 0 ∧ busy.keys &&& ~~~(0 : Word) ≠ 0 ∧
      ({ edgeBusy with keys := 1 } : State).keys &&& ~~~edgeBusy.keyPrev = 0 :=
  ⟨⟨.inr ⟨rfl, rfl⟩, .inl rfl⟩, by decide⟩

theorem witness_EveryEligibleKeyCanBeChosen :
    busy.keys.getLsbD (0 : RegIdx).val = true ∧ busy.keys.getLsbD (15 : RegIdx).val = true ∧
      busy.params.keyWait = .level ∧ edgeBusy.keys.getLsbD (15 : RegIdx).val = true ∧
      edgeBusy.keyPrev.getLsbD (15 : RegIdx).val = false := by decide

theorem witness_AdaptersTouchOnlyTheirPorts :
    (busyWith (.setKeys 0xFFFF)).params.wf = true ∧
      (busyWith (.setKeys 0xFFFF)).inputs.moves = .setKeys 0xFFFF :: [.timerTick] ∧
      (busyWith (.fbRead 31 63)).params.wf = true ∧
      (busyWith (.fbRead 31 63)).inputs.moves = .fbRead 31 63 :: [.timerTick] := by decide

theorem witness_RegistersHaveTheirWriters : ∃ t, exec (.loadRegs 14) busy = .next t := ⟨_, rfl⟩

/-- 1NNN is none of the writers that the clauses name. -/
theorem witness_StateHasItsWriters :
    (∃ t, exec (.jp 0xFFF) busy = .next t) ∧ (∀ x, Instr.jp 0xFFF ≠ .ldBcd x ∧ Instr.jp 0xFFF ≠ .storeRegs x) ∧
      (∀ x y n, Instr.jp 0xFFF ≠ .cls ∧ Instr.jp 0xFFF ≠ .drw x y n) ∧
      (∀ a, Instr.jp 0xFFF ≠ .ret ∧ Instr.jp 0xFFF ≠ .call a) ∧
      (∀ a x, Instr.jp 0xFFF ≠ .ldI a ∧ Instr.jp 0xFFF ≠ .addI x ∧ Instr.jp 0xFFF ≠ .ldFont x ∧
        Instr.jp 0xFFF ≠ .storeRegs x ∧ Instr.jp 0xFFF ≠ .loadRegs x) ∧
      (∀ x, Instr.jp 0xFFF ≠ .ldDtVx x) ∧ (∀ x, Instr.jp 0xFFF ≠ .ldStVx x) ∧ ∀ x, Instr.jp 0xFFF ≠ .ldVxK x := by
  refine ⟨⟨_, rfl⟩, ?_⟩
  simp

/-- A build that differs in all six parameters. -/
theorem witness_SourceOperationsIgnoreSixParameters :
    ∃ p : Params, p.shiftSrc = .vx ∧ p.logicVfReset = false ∧ p.memIncrI = false ∧ p.jumpOffsetReg = .vx ∧
      p.stackCap = some 1 ∧ p.keyWait = .edge ∧ (Instr.drw 15 0 15).inMin6 = true ∧ p.opset = busy.params.opset ∧
      p.fontBase = busy.params.fontBase ∧ p.resetPolicy = busy.params.resetPolicy ∧
      p.onCondition = busy.params.onCondition ∧ ∃ t, exec (.drw 15 0 15) busy = .next t :=
  ⟨⟨.full, .vx, false, false, .vx, 0x050#12, .zero, some 1, .edge, .halt⟩, rfl, rfl, rfl, rfl, rfl, rfl, rfl, rfl, rfl,
    rfl, rfl, _, rfl⟩

/-- A jump to the last word of memory, and there a jump to itself. -/
def lastJump : State :=
  { State.reset with mem := [(0x200, 0x1F), (0x201, 0xFE), (0xFFE, 0x1F), (0xFFF, 0xFE)] }

/-- `lastJump` after its first step. -/
def lastJumpEnd : State := { lastJump with pc := 0x0FFE#16, loadOpen := false }

theorem lastJumpEnd_mem : Memory.wf lastJumpEnd.params.fontBase lastJumpEnd.mem = true := by decide

theorem lastJumpEnd_inv : lastJumpEnd.Inv :=
  ⟨by decide, lastJumpEnd_mem, by decide, (fun a h => by cases h), rfl, fun h => (by cases h), rfl, fun _ => rfl, fun _ => rfl, rfl,
    fun c _ => State.memWritten_of_zero rfl c.1⟩

theorem witness_JumpToSelfGoesOn : lastJumpEnd.Inv ∧ lastJumpEnd.ticksThen [] ∧ lastJumpEnd.endShape = true :=
  ⟨lastJumpEnd_inv, .inr ⟨rfl, rfl⟩, by decide⟩

/-- R246: the run from `lastJump` ends after one step. -/
theorem test_R246_end_after_one_step : EndsAfter 1 lastJump lastJumpEnd := by
  refine ⟨by decide, by decide, fun j hj u hu => ?_⟩
  have e : j = 0 := by omega
  subst e
  have hu' : runClean 0 lastJump = some lastJump := rfl
  rw [hu'] at hu
  cases hu
  decide

/-- R246: while the loader has still to write, no state is the end of a run. -/
theorem test_R246_no_end_in_mid_load (t : State) :
    ¬ EndsAfter 0 (lastJumpEnd.withMoves [.loadByte 0xFFE 0x12]) t := by
  rintro ⟨h, -⟩
  have e : runClean 0 (lastJumpEnd.withMoves [.loadByte 0xFFE 0x12]) = none := rfl
  rw [e] at h
  cases h

/-- Log 19: a one-byte image 0x12 at 0x200, whose second byte has no value. -/
theorem test_R246_unwritten_byte_is_no_word : (unwritten.memWrite 0x200 0x12).endShape = false := by decide

/-- The invariant, a tick as the next move, and a tick that ends with code 0. -/
theorem witness_OutputPortsShowTheOutcome :
    busy.Inv ∧ lastJumpEnd.ticksThen [] ∧ ∃ t, step lastJumpEnd = .next t ∧ t.statusPort.toNat ∈ [0, 5, 6] :=
  ⟨busy_inv, .inr ⟨rfl, rfl⟩, _, rfl, by decide⟩

end Sys2Proof.Tests
end

section
/-! PROOFS. Encoding and fetch: the fields of a word, the itypes without a sub-opcode, and the fetch (30 R80 to R90). -/

namespace Sys2Proof

/-- The two readings of `nnn` that R80 gives are one. -/
theorem fieldNNN_eq_x_y_n (w : Word) :
    (fieldNNN w).toNat = 256 * (fieldX w).val + 16 * (fieldY w).val + (fieldN w).toNat := by
  rw [fieldNNN_toNat, fieldX_val, fieldY_val, fieldN_toNat]
  omega

/-- Under `OPSET = full` the build refuses no operation of the opcode map. -/
theorem decode_full (w : Word) : decode .full w = decodeFull w := by
  unfold decode
  cases decodeFull w with
  | ok i => rfl
  | error r => rfl

/-- Settles O3, field by field. -/
theorem fieldsSplitTheWord : Obligations.FieldsSplitTheWord := fun w =>
  ⟨fieldItype_toNat w, fieldX_val w, fieldY_val w, fieldN_toNat w, fieldNN_toNat w, fieldNNN_toNat w,
    fieldNNN_eq_x_y_n w⟩

/-- Settles O4: under `full` decoding is the opcode map, whose arm the itype selects. -/
theorem plainItypesAlwaysDecode : Obligations.PlainItypesAlwaysDecode := by
  intro w
  rw [decode_full]
  refine ⟨?_, ?_, ?_, ?_, ?_, ?_, ?_, ?_, ?_, ?_⟩ <;>
    · intro itype
      simp [decodeFull, itype]

end Sys2Proof

namespace Sys2Proof.Machine

theorem State.fetchWord_toNat (s : State) :
    s.fetchWord.toNat = 256 * (s.memRead s.pc.toNat).toNat + (s.memRead (s.pc.toNat + 1)).toNat :=
  wordOfBytes_toNat _ _

/-- A read goes through the address decoder (20 R61). -/
theorem State.memRead_mod (s : State) (a : Nat) : s.memRead (a % 4096) = s.memRead a :=
  congrArg (Memory.read s.params.fontBase s.mem) (decodeAddr_idem a)

theorem State.afterFetch_sameButReport (s : State) : SameButReport s s.afterFetch :=
  ⟨fun r _ => ⟨s.afterFetch_readReg r, s.afterFetch_regWritten r⟩,
    fun a => ⟨s.afterFetch_memRead a, s.afterFetch_memWritten a⟩,
    ⟨s.afterFetch_i, s.afterFetch_indexWritten⟩, ⟨s.afterFetch_dt, s.afterFetch_delayWritten⟩,
    ⟨s.afterFetch_st, s.afterFetch_soundWritten⟩, s.afterFetch_fb, s.afterFetch_stack, s.afterFetch_inputs,
    s.afterFetch_params, s.afterFetch_keys, s.afterFetch_keyPrev, s.afterFetch_beep⟩

/-- Settles O8: the word read, the wrap of its second address, the advance of `PC`, and the frame. -/
theorem fetchReadsBigEndianAndAdvances : Obligations.FetchReadsBigEndianAndAdvances := fun s =>
  ⟨s.fetchWord_toNat, (s.memRead_mod _).symm, by rw [State.afterFetch_pc, pcValue_toNat], s.afterFetch_sameButReport⟩

end Sys2Proof.Machine
end

section
/-! PROOFS. Control transfer: the word of an instruction decodes to it, and the jump and the skips (40 R102 to R107). -/

namespace Sys2Proof

/-- Under `full` every instruction is the one its word decodes to (30 R86). -/
theorem decode_full_encode (i : Instr) : decode .full (encode i) = .ok i := by
  rw [decode_full]
  cases i with
  | cls | ret => rfl
  | _ => simp [decodeFull, decodeItype8, decodeItypeE, decodeItypeF, encode]

/-- With `n` not 0 the itypes 5 and 9 have no operation (30 R89). -/
theorem decode_full_of_fieldN_ne_zero {w : Word} (ht : fieldItype w = 0x5#4 ∨ fieldItype w = 0x9#4)
    (hn : fieldN w ≠ 0#4) : decode .full w = .error (.unimplemented w) := by
  rw [decode_full]
  rcases ht with ht | ht
  · simp [decodeFull, ht, hn]
  · simp [decodeFull, ht, hn]

end Sys2Proof

namespace Sys2Proof.Machine

/-- An instruction has the word that R80 and R86 write out for it. -/
theorem hasWord_wordNumber {i : Instr} (h : Laws.WordNumber.Statement i) : HasWord i (Laws.wordNumber i) :=
  ⟨h, decode_full_encode i⟩

/-- Settles O25: the address of 12 bits is already reduced modulo 4096. -/
theorem jumpSetsPcOnly : Obligations.JumpSetsPcOnly := fun s nnn => by
  have hpc : pcValue nnn.toNat = BitVec.ofNat 16 nnn.toNat := by
    rw [pcValue, Nat.mod_eq_of_lt nnn.isLt]
  refine ⟨hasWord_wordNumber (Laws.WordNumber.jp nnn), ?_⟩
  rw [← hpc]
  rfl

/-- A skip writes nothing but `PC` (40 R104 to R107). -/
theorem State.skipIf_frameRegs (s : State) (c : Bool) : FrameRegs [] s (s.skipIf c) := by
  simp [FrameRegs, SameRegsExcept, SameMemory, SameIndex, SameDelay, SameSound, SameRun, SameOutside]

/-- An instruction that skips when `p` and does not when `q`, stated as its next state. -/
theorem exec_skipIf_outcome {i : Instr} {s : State} {c : Bool} {p q : Prop} (h : exec i s = .next (s.skipIf c))
    (hp : p → c = true) (hq : q → c = false) :
    ∃ t, exec i s = .next t ∧ FrameRegs [] s t ∧
      (p → t.pc.toNat = (s.pc.toNat + 2) % 4096) ∧ (q → t.pc = s.pc) := by
  refine ⟨s.skipIf c, h, s.skipIf_frameRegs c, fun skips => ?_, fun stays => ?_⟩
  · rw [State.skipIf_pc, if_pos (hp skips), pcValue_toNat]
  · rw [State.skipIf_pc, hq stays, if_neg Bool.false_ne_true]

theorem exec_seImm {s : State} {x : RegIdx} (hx : s.regWritten x = true) (nn : Byte) :
    exec (.seImm x nn) s = .next (s.skipIf (s.readReg x == nn)) :=
  State.whenReadable_of_readable (i := .seImm x nn) hx _

theorem exec_sneImm {s : State} {x : RegIdx} (hx : s.regWritten x = true) (nn : Byte) :
    exec (.sneImm x nn) s = .next (s.skipIf (s.readReg x != nn)) :=
  State.whenReadable_of_readable (i := .sneImm x nn) hx _

theorem exec_seReg {s : State} {x y : RegIdx} (hx : s.regWritten x = true) (hy : s.regWritten y = true) :
    exec (.seReg x y) s = .next (s.skipIf (s.readReg x == s.readReg y)) :=
  State.whenReadable_of_readable (i := .seReg x y) (Bool.and_eq_true_iff.mpr ⟨hx, hy⟩) _

theorem exec_sneReg {s : State} {x y : RegIdx} (hx : s.regWritten x = true) (hy : s.regWritten y = true) :
    exec (.sneReg x y) s = .next (s.skipIf (s.readReg x != s.readReg y)) :=
  State.whenReadable_of_readable (i := .sneReg x y) (Bool.and_eq_true_iff.mpr ⟨hx, hy⟩) _

/-- Settles O29: each word, and each outcome of the comparison with `nn`. -/
theorem skipsOnImmediate : Obligations.SkipsOnImmediate := fun _ x nn hx =>
  ⟨⟨hasWord_wordNumber (Laws.WordNumber.seImm x nn),
      exec_skipIf_outcome (exec_seImm hx nn) beq_iff_eq.mpr beq_eq_false_iff_ne.mpr⟩,
    hasWord_wordNumber (Laws.WordNumber.sneImm x nn),
    exec_skipIf_outcome (exec_sneImm hx nn) bne_iff_ne.mpr bne_eq_false_iff_eq.mpr⟩

/-- Settles O30: each word, each outcome of the comparison of the two registers, and the words with `n` not 0. -/
theorem skipsOnRegisters : Obligations.SkipsOnRegisters := fun _ x y hx hy =>
  ⟨⟨hasWord_wordNumber (Laws.WordNumber.seReg x y),
      exec_skipIf_outcome (exec_seReg hx hy) beq_iff_eq.mpr beq_eq_false_iff_ne.mpr⟩,
    ⟨hasWord_wordNumber (Laws.WordNumber.sneReg x y),
      exec_skipIf_outcome (exec_sneReg hx hy) bne_iff_ne.mpr bne_eq_false_iff_eq.mpr⟩,
    fun _ => decode_full_of_fieldN_ne_zero⟩

end Sys2Proof.Machine
end

section
/-! PROOFS. Register and ALU operations: a write of one register and a write of a result and a flag, then the loads, the
additions and the subtractions (41 R120 to R122, R126, R127, R129). -/

namespace Sys2Proof.Machine

/-! ## The frame of a register write -/

theorem State.writeReg_frameRegs (s : State) (x : RegIdx) (b : Byte) : FrameRegs [x] s (s.writeReg x b) := by
  have hregs : SameRegsExcept [x] s (s.writeReg x b) := fun q hq =>
    have hne : q ≠ x := List.ne_of_not_mem_cons hq
    ⟨s.readReg_writeReg_ne b hne, s.regWritten_writeReg_ne b hne⟩
  exact ⟨hregs, by simp [SameMemory, SameIndex, SameDelay, SameSound, SameRun, SameOutside]⟩

theorem State.writeWithFlag_frameRegs (s : State) (x : RegIdx) (result flag : Byte) :
    FrameRegs [x, vf] s (s.writeWithFlag x result flag) := by
  have hregs : SameRegsExcept [x, vf] s (s.writeWithFlag x result flag) := fun q hq => by
    obtain ⟨hx, hvf⟩ : q ≠ x ∧ q ≠ vf := by simpa using hq
    simp [State.readReg_writeWithFlag, State.regWritten_writeWithFlag, hx, hvf]
  exact ⟨hregs, by simp [SameMemory, SameIndex, SameDelay, SameSound, SameRun, SameOutside]⟩

/-- `VF` is written last: it ends as the flag, also when it is the destination (41 R132). -/
@[simp] theorem State.readReg_vf_writeWithFlag (s : State) (x : RegIdx) (result flag : Byte) :
    (s.writeWithFlag x result flag).readReg vf = flag := by
  rw [State.readReg_writeWithFlag, if_pos rfl]

theorem State.readReg_writeWithFlag_self (s : State) {x : RegIdx} (result flag : Byte) (h : x ≠ vf) :
    (s.writeWithFlag x result flag).readReg x = result := by
  rw [State.readReg_writeWithFlag, if_neg h, if_pos rfl]

/-! ## The results and the flags as numbers -/

theorem toNat_byte_sub (a b : Byte) : (a - b).toNat = (a.toNat + 256 - b.toNat) % 256 := by
  have hb : b.toNat < 256 := b.isLt
  rw [BitVec.toNat_sub]
  omega

theorem carryFlag_eq_ite (a b : Byte) : carryFlag a b = if a.toNat + b.toNat > 255 then 1 else 0 := by
  simp only [carryFlag, flagByte, decide_eq_true_eq]

theorem notBorrowFlag_eq_ite (a b : Byte) : notBorrowFlag a b = if a.toNat ≥ b.toNat then 1 else 0 := by
  simp only [notBorrowFlag, flagByte, decide_eq_true_eq, ge_iff_le]

/-! ## What the instructions answer when their operands hold values -/

theorem exec_addImm {s : State} {x : RegIdx} (hx : s.regWritten x = true) (nn : Byte) :
    exec (.addImm x nn) s = .next (s.writeReg x (s.readReg x + nn)) :=
  State.whenReadable_of_readable (i := .addImm x nn) hx _

theorem exec_ldReg {s : State} (x : RegIdx) {y : RegIdx} (hy : s.regWritten y = true) :
    exec (.ldReg x y) s = .next (s.writeReg x (s.readReg y)) :=
  State.whenReadable_of_readable (i := .ldReg x y) hy _

theorem exec_addReg {s : State} {x y : RegIdx} (hx : s.regWritten x = true) (hy : s.regWritten y = true) :
    exec (.addReg x y) s =
      .next (s.writeWithFlag x (s.readReg x + s.readReg y) (carryFlag (s.readReg x) (s.readReg y))) :=
  State.whenReadable_of_readable (i := .addReg x y) (Bool.and_eq_true_iff.mpr ⟨hx, hy⟩) _

theorem exec_subReg {s : State} {x y : RegIdx} (hx : s.regWritten x = true) (hy : s.regWritten y = true) :
    exec (.subReg x y) s =
      .next (s.writeWithFlag x (s.readReg x - s.readReg y) (notBorrowFlag (s.readReg x) (s.readReg y))) :=
  State.whenReadable_of_readable (i := .subReg x y) (Bool.and_eq_true_iff.mpr ⟨hx, hy⟩) _

theorem exec_subnReg {s : State} {x y : RegIdx} (hx : s.regWritten x = true) (hy : s.regWritten y = true) :
    exec (.subnReg x y) s =
      .next (s.writeWithFlag x (s.readReg y - s.readReg x) (notBorrowFlag (s.readReg y) (s.readReg x))) :=
  State.whenReadable_of_readable (i := .subnReg x y) (Bool.and_eq_true_iff.mpr ⟨hx, hy⟩) _

/-- An instruction that loads `b` into `V[x]`, stated as its next state. -/
theorem exec_writeReg_outcome {i : Instr} {s : State} {x : RegIdx} {b : Byte}
    (h : exec i s = .next (s.writeReg x b)) :
    ∃ t, exec i s = .next t ∧ FrameRegs [x] s t ∧ t.pc = s.pc ∧ t.readReg x = b ∧ t.regWritten x = true :=
  ⟨s.writeReg x b, h, s.writeReg_frameRegs x b, s.writeReg_pc x b, s.readReg_writeReg_self x b,
    s.regWritten_writeReg_self x b⟩

/-- An instruction that writes a result, the number `n`, and then a flag, stated as its next state. -/
theorem exec_writeWithFlag_outcome {i : Instr} {s : State} {x : RegIdx} {result flag f : Byte} {n : Nat}
    (h : exec i s = .next (s.writeWithFlag x result flag)) (hresult : result.toNat = n) (hflag : flag = f) :
    ∃ t, exec i s = .next t ∧ FrameRegs [x, vf] s t ∧ t.pc = s.pc ∧
      (x ≠ vf → (t.readReg x).toNat = n) ∧ t.readReg vf = f := by
  refine ⟨_, h, s.writeWithFlag_frameRegs x result flag, s.writeWithFlag_pc x result flag, fun hne => ?_, ?_⟩
  · rw [s.readReg_writeWithFlag_self result flag hne, hresult]
  · rw [s.readReg_vf_writeWithFlag x result flag, hflag]

/-! ## The obligations -/

/-- Settles O33: each load is one register write. -/
theorem loadsSetTheRegister : Obligations.LoadsSetTheRegister := fun _ x y nn =>
  ⟨⟨hasWord_wordNumber (Laws.WordNumber.ldImm x nn), exec_writeReg_outcome rfl⟩,
    hasWord_wordNumber (Laws.WordNumber.ldReg x y), fun hy => exec_writeReg_outcome (exec_ldReg x hy)⟩

/-- Settles O34: one register write, of a sum of bytes, which wraps. -/
theorem addImmediateWrapsWithoutFlag : Obligations.AddImmediateWrapsWithoutFlag := fun s x nn hx => by
  obtain ⟨t, hnext, hframe, hpc, hsum, -⟩ := exec_writeReg_outcome (exec_addImm hx nn)
  refine ⟨hasWord_wordNumber (Laws.WordNumber.addImm x nn), t, hnext, hframe, hpc, ?_⟩
  rw [hsum, BitVec.toNat_add]

/-- Settles O36: the sum of bytes wraps, and the flag is the carry. -/
theorem addSetsCarry : Obligations.AddSetsCarry := fun _ x y hx hy =>
  ⟨hasWord_wordNumber (Laws.WordNumber.addReg x y),
    exec_writeWithFlag_outcome (exec_addReg hx hy) (BitVec.toNat_add _ _) (carryFlag_eq_ite _ _)⟩

/-- Settles O37: each difference of bytes wraps, and the flag is the not-borrow. -/
theorem subtractionsSetNotBorrow : Obligations.SubtractionsSetNotBorrow := fun _ x y hx hy =>
  ⟨⟨hasWord_wordNumber (Laws.WordNumber.subReg x y),
      exec_writeWithFlag_outcome (exec_subReg hx hy) (toNat_byte_sub _ _) (notBorrowFlag_eq_ite _ _)⟩,
    hasWord_wordNumber (Laws.WordNumber.subnReg x y),
    exec_writeWithFlag_outcome (exec_subnReg hx hy) (toNat_byte_sub _ _) (notBorrowFlag_eq_ite _ _)⟩

end Sys2Proof.Machine
end

section
/-! PROOFS. Index register and memory: the frames of a write of `I` and of a run of stores, then the load of `I` and
the store of the decimal digits (42 R150, R153). -/

namespace Sys2Proof.Machine

/-! ## The load of `I` -/

theorem State.writeIndex_frameIndex (s : State) (w : Word) : FrameIndex s (s.writeIndex w) := by
  simp [FrameIndex, SameRegsExcept, SameMemory, SameDelay, SameSound, SameRun, SameOutside]

/-- An instruction that loads the number `n` into `I`, stated as its next state. -/
theorem exec_writeIndex_outcome {i : Instr} {s : State} {w : Word} {n : Nat} (h : exec i s = .next (s.writeIndex w))
    (hw : w.toNat = n) : ∃ t, exec i s = .next t ∧ FrameIndex s t ∧ t.i.toNat = n ∧ t.indexWritten = true :=
  ⟨s.writeIndex w, h, s.writeIndex_frameIndex w, hw, s.writeIndex_indexWritten w⟩

/-- Settles O40: the write of `I` is unconditional, and 12 bits extended to 16 are the same number. -/
theorem setIndexLoadsTheAddress : Obligations.SetIndexLoadsTheAddress := fun _ nnn =>
  have hnnn : (nnn.setWidth 16).toNat = nnn.toNat := BitVec.toNat_setWidth_of_le (by decide)
  ⟨hasWord_wordNumber (Laws.WordNumber.ldI nnn), exec_writeIndex_outcome rfl hnnn⟩

/-! ## A run of stores -/

/-- A run of stores reaches no byte outside it, nor that byte's `written` bit. -/
theorem State.memWriteList_sameMemoryOutside {s : State} (h : Memory.wf s.params.fontBase s.mem = true) (a : Nat)
    (l : List Byte) : SameMemoryOutside a l.length s (s.memWriteList a l) := by
  intro b hb
  have hunhit : ¬ ∃ k < l.length, decodeAddr (a + k) = decodeAddr b := fun ⟨k, hk, hit⟩ => hb k hk hit.symm
  refine ⟨State.memRead_memWriteList_outside h hb, ?_⟩
  rw [Bool.eq_iff_iff, State.memWritten_memWriteList, or_iff_right hunhit]

theorem State.memWriteList_frameStore {s : State} (h : Memory.wf s.params.fontBase s.mem = true) (a : Nat)
    (l : List Byte) : FrameStore a l.length s (s.memWriteList a l) := by
  have hmem := State.memWriteList_sameMemoryOutside h a l
  simp [FrameStore, SameRegsExcept, SameDelay, SameSound, SameRun, SameOutside, hmem]

theorem State.memWriteList_sameIndex (s : State) (a : Nat) (l : List Byte) : SameIndex s (s.memWriteList a l) :=
  ⟨s.memWriteList_i a l, s.memWriteList_indexWritten a l⟩

/-- Byte `k` of a run stored from `I` on is read back at `I + k` (42 R156). -/
theorem State.memRead_dataAddr_memWriteList {s : State} (h : Memory.wf s.params.fontBase s.mem = true) {l : List Byte}
    (hl : l.length ≤ 4096) {k : Nat} (hk : k < l.length) :
    (s.memWriteList (s.dataAddr 0) l).memRead (s.dataAddr k) = l[k] :=
  State.memRead_memWriteList_inside (a := s.dataAddr 0) h hl hk

/-! ## The decimal digits -/

theorem toNat_byte_ofNat {n : Nat} (h : n < 256) : (BitVec.ofNat 8 n : Byte).toNat = n := Nat.mod_eq_of_lt h

theorem exec_ldBcd {s : State} {x : RegIdx} (hx : s.regWritten x = true) (hi : s.indexWritten = true) :
    exec (.ldBcd x) s = .next (s.memWriteList (s.dataAddr 0) (bcdDigits (s.readReg x))) :=
  State.whenReadable_of_readable (i := .ldBcd x) (Bool.and_eq_true_iff.mpr ⟨hx, hi⟩) _

/-- Settles O42: FX33 is a run of three stores, each digit is read back where it was stored, and no digit exceeds a
byte. -/
theorem bcdStoresThreeDigits : Obligations.BcdStoresThreeDigits := fun s x hmem hx hi => by
  have hread (k : Nat) (hk : k < 3) :
      (s.memWriteList (s.dataAddr 0) (bcdDigits (s.readReg x))).memRead (s.dataAddr k) = (bcdDigits (s.readReg x))[k] :=
    State.memRead_dataAddr_memWriteList hmem (by simp [bcdDigits]) hk
  have hbyte : (s.readReg x).toNat < 256 := (s.readReg x).isLt
  refine ⟨hasWord_wordNumber (Laws.WordNumber.ldBcd x), _, exec_ldBcd hx hi,
    State.memWriteList_frameStore hmem _ _, s.memWriteList_sameIndex _ _, ?_, ?_, ?_⟩
  · rw [hread 0 (by decide)]
    exact toNat_byte_ofNat (by omega)
  · rw [hread 1 (by decide)]
    exact toNat_byte_ofNat (by omega)
  · rw [hread 2 (by decide)]
    exact toNat_byte_ofNat (by omega)

end Sys2Proof.Machine
end

section
/-! PROOFS. Display: the clear, and the pixels a sprite flips, one pixel, one row and then the whole sprite (43 R170 to
R172). -/

namespace Sys2Proof.Machine

/-! ## The clear -/

theorem FrameRegs.refl (dst : List RegIdx) (s : State) : FrameRegs dst s s := by
  simp [FrameRegs, SameRegsExcept, SameMemory, SameIndex, SameDelay, SameSound, SameRun, SameOutside]

/-- A clear writes the buffer, all of it off, and nothing else (43 R170). -/
theorem State.clearDisplay_frameRegs (s : State) : FrameRegs [] { s with fb := s.clearDisplay.fb } s.clearDisplay :=
  FrameRegs.refl [] s.clearDisplay

/-- Settles O45: the buffer after the clear is the blank one, and only the buffer is written. -/
theorem clearTurnsEveryPixelOff : Obligations.ClearTurnsEveryPixelOff := fun s =>
  ⟨hasWord_wordNumber Laws.WordNumber.cls, s.clearDisplay, rfl, Framebuffer.pixel_blank, s.clearDisplay_pc,
    s.clearDisplay_frameRegs⟩

/-! ## The pixels flipped so far -/

/-- `acc` is the buffer `fb` with exactly the pixels of `P` flipped, beside whether one of them was on. -/
def FlipsExactly (fb : Framebuffer) (P : Fin 32 → Fin 64 → Prop) (acc : Framebuffer × Bool) : Prop :=
  (∀ r c, acc.1.pixel r c = true ↔ (fb.pixel r c = true ↔ ¬ P r c)) ∧
    (acc.2 = true ↔ ∃ r c, fb.pixel r c = true ∧ P r c)

theorem FlipsExactly.congr {fb : Framebuffer} {P Q : Fin 32 → Fin 64 → Prop} {acc : Framebuffer × Bool}
    (h : FlipsExactly fb P acc) (hPQ : ∀ r c, Q r c ↔ P r c) : FlipsExactly fb Q acc := by
  simpa only [FlipsExactly, hPQ] using h

theorem flipsExactly_none (fb : Framebuffer) : FlipsExactly fb (fun _ _ => False) (fb, false) := by
  simp [FlipsExactly]

/-- A pixel not yet flipped is as it was in `fb`: one more flip adds it to the flipped ones, and to the collision when
it was on there. -/
theorem FlipsExactly.flip {fb : Framebuffer} {P : Fin 32 → Fin 64 → Prop} {acc : Framebuffer × Bool}
    (h : FlipsExactly fb P acc) {r₀ : Fin 32} {c₀ : Fin 64} (hnew : ¬ P r₀ c₀) :
    FlipsExactly fb (fun r c => P r c ∨ r = r₀ ∧ c = c₀) (acc.1.flip r₀ c₀, acc.2 || acc.1.pixel r₀ c₀) := by
  obtain ⟨hpixel, hcollision⟩ := h
  have hsame : acc.1.pixel r₀ c₀ = true ↔ fb.pixel r₀ c₀ = true := by simp [hpixel, hnew]
  refine ⟨fun r c => ?_, ?_⟩
  · rw [Framebuffer.pixel_flip]
    by_cases hrc : r₀ = r ∧ c₀ = c
    · obtain ⟨rfl, rfl⟩ := hrc
      simp [← hsame]
    · have hother : ¬ (r = r₀ ∧ c = c₀) := fun ⟨hr, hc⟩ => hrc ⟨hr.symm, hc.symm⟩
      simp only [if_neg hrc, hpixel, hother, or_false]
  · simp only [Bool.or_eq_true, hcollision, hsame, and_or_left, exists_or]
    refine or_congr_right ⟨fun hon => ⟨r₀, c₀, hon, rfl, rfl⟩, ?_⟩
    rintro ⟨_, _, hon, rfl, rfl⟩
    exact hon

/-! ## The pixels of one row -/

/-- One of the first `n` columns of a sprite's row `k` has a 1 bit on pixel `(r, c)` (43 R171). -/
def RowCovers (x0 y0 : Byte) (k : Nat) (bits : Byte) (n : Nat) (r : Fin 32) (c : Fin 64) : Prop :=
  r = spriteRow y0 k ∧ ∃ dc < n, c = spriteCol x0 dc ∧ bits.getLsbD (7 - dc) = true

theorem not_rowCovers_zero (x0 y0 : Byte) (k : Nat) (bits : Byte) (r : Fin 32) (c : Fin 64) :
    ¬ RowCovers x0 y0 k bits 0 r c := by
  simp [RowCovers]

theorem rowCovers_succ (x0 y0 : Byte) (k : Nat) (bits : Byte) (n : Nat) (r : Fin 32) (c : Fin 64) :
    RowCovers x0 y0 k bits (n + 1) r c ↔
      RowCovers x0 y0 k bits n r c ∨ (r = spriteRow y0 k ∧ c = spriteCol x0 n) ∧ bits.getLsbD (7 - n) = true := by
  simp only [RowCovers, Nat.exists_lt_succ_right, and_or_left, and_assoc]

/-- A row's columns before column `n` land elsewhere than column `n`. -/
theorem not_rowCovers_spriteCol (x0 y0 : Byte) (k : Nat) (bits : Byte) {n : Nat} (hn : n < 8) (r : Fin 32) :
    ¬ RowCovers x0 y0 k bits n r (spriteCol x0 n) := by
  rintro ⟨-, dc, hdc, hcol, -⟩
  have heq : n = dc := spriteCol_injective hn (hdc.trans hn) hcol
  omega

/-- One pixel of a sprite flips the pixel it lands on when its bit is 1, and nothing otherwise (43 R171). -/
theorem FlipsExactly.drawPixel {fb : Framebuffer} {P : Fin 32 → Fin 64 → Prop} {acc : Framebuffer × Bool}
    (h : FlipsExactly fb P acc) {x0 y0 : Byte} {k : Nat} (bits : Byte) {n : Nat}
    (hnew : ¬ P (spriteRow y0 k) (spriteCol x0 n)) :
    FlipsExactly fb (fun r c => P r c ∨ (r = spriteRow y0 k ∧ c = spriteCol x0 n) ∧ bits.getLsbD (7 - n) = true)
      (drawPixel x0 y0 k bits acc n) := by
  rcases drawPixel_cases x0 y0 k bits acc n with ⟨hbit, hdraw⟩ | ⟨hbit, hdraw⟩
  · rw [hdraw]
    exact (h.flip hnew).congr (by simp [hbit])
  · rw [hdraw]
    exact h.congr (by simp [hbit])

/-- The first `n` columns of a row flip what they cover, where nothing of that row was flipped before. -/
theorem FlipsExactly.drawColumns {fb : Framebuffer} {P : Fin 32 → Fin 64 → Prop} {acc : Framebuffer × Bool}
    (h : FlipsExactly fb P acc) (x0 : Byte) {y0 : Byte} {k : Nat} (bits : Byte) (hnew : ∀ c, ¬ P (spriteRow y0 k) c)
    {n : Nat} (hn : n ≤ 8) :
    FlipsExactly fb (fun r c => P r c ∨ RowCovers x0 y0 k bits n r c)
      ((List.range n).foldl (Machine.drawPixel x0 y0 k bits) acc) := by
  induction n with
  | zero => exact h.congr fun r c => or_iff_left (not_rowCovers_zero x0 y0 k bits r c)
  | succ n ih =>
    have hfresh : ¬ (P (spriteRow y0 k) (spriteCol x0 n) ∨
        RowCovers x0 y0 k bits n (spriteRow y0 k) (spriteCol x0 n)) :=
      not_or.mpr ⟨hnew _, not_rowCovers_spriteCol x0 y0 k bits hn _⟩
    rw [List.range_succ, List.foldl_append]
    exact ((ih (Nat.le_of_succ_le hn)).drawPixel bits hfresh).congr fun r c => by rw [rowCovers_succ, or_assoc]

/-! ## The pixels of a sprite -/

/-- A sprite covers what one of its rows covers. -/
theorem spriteCovers_iff (x0 y0 : Byte) (rows : List Byte) (r : Fin 32) (c : Fin 64) :
    SpriteCovers x0 y0 rows r c ↔ ∃ dr, ∃ h : dr < rows.length, RowCovers x0 y0 dr rows[dr] 8 r c := by
  simp only [SpriteCovers, RowCovers, Fin.ext_iff, spriteRow_val, spriteCol_val]
  constructor
  · rintro ⟨dr, dc, hdr, hdc, hrow, hcol, hbit⟩
    exact ⟨dr, hdr, hrow, dc, hdc, hcol, hbit⟩
  · rintro ⟨dr, hdr, hrow, dc, hdc, hcol, hbit⟩
    exact ⟨dr, dc, hdr, hdc, hrow, hcol, hbit⟩

theorem not_spriteCovers_nil (x0 y0 : Byte) (r : Fin 32) (c : Fin 64) : ¬ SpriteCovers x0 y0 [] r c := by
  simp [spriteCovers_iff]

/-- A sprite with one row more covers what the rows before it cover and what the new row covers. -/
theorem spriteCovers_concat (x0 y0 : Byte) (rows : List Byte) (bits : Byte) (r : Fin 32) (c : Fin 64) :
    SpriteCovers x0 y0 (rows ++ [bits]) r c ↔
      SpriteCovers x0 y0 rows r c ∨ RowCovers x0 y0 rows.length bits 8 r c := by
  simp only [spriteCovers_iff]
  constructor
  · rintro ⟨dr, hdr, hcovers⟩
    by_cases hold : dr < rows.length
    · exact .inl ⟨dr, hold, by rwa [List.getElem_append_left hold] at hcovers⟩
    · have hlast : dr = rows.length := by
        rw [List.length_append, List.length_singleton] at hdr
        omega
      subst hlast
      exact .inr (by rwa [List.getElem_concat_length rfl] at hcovers)
  · rintro (⟨dr, hdr, hcovers⟩ | hcovers)
    · exact ⟨dr, by rw [List.length_append]; omega, by rwa [List.getElem_append_left hdr]⟩
    · exact ⟨rows.length, by simp, by rwa [List.getElem_concat_length rfl]⟩

/-- The rows before the next one land elsewhere than it does, in a sprite of at most 15 rows. -/
theorem not_spriteCovers_spriteRow (x0 y0 : Byte) {rows : List Byte} (hlen : rows.length < 15) (c : Fin 64) :
    ¬ SpriteCovers x0 y0 rows (spriteRow y0 rows.length) c := by
  rw [spriteCovers_iff]
  rintro ⟨dr, hdr, hrow, -⟩
  have heq : rows.length = dr := spriteRow_injective hlen (hdr.trans hlen) hrow
  omega

/-- Drawing the rows `rest` after the rows `drawn` flips what the whole sprite covers. -/
theorem FlipsExactly.drawRows {fb : Framebuffer} {x0 y0 : Byte} (rest : List Byte) {drawn : List Byte}
    {acc : Framebuffer × Bool} (h : FlipsExactly fb (SpriteCovers x0 y0 drawn) acc)
    (hlen : drawn.length + rest.length ≤ 15) :
    FlipsExactly fb (SpriteCovers x0 y0 (drawn ++ rest)) (drawRows x0 y0 drawn.length rest acc) := by
  induction rest generalizing drawn acc with
  | nil => rwa [List.append_nil]
  | cons bits rest ih =>
    rw [List.length_cons] at hlen
    have hfresh : ∀ c, ¬ SpriteCovers x0 y0 drawn (spriteRow y0 drawn.length) c :=
      not_spriteCovers_spriteRow x0 y0 (by omega)
    have hrow : FlipsExactly fb (SpriteCovers x0 y0 (drawn ++ [bits])) (drawRow x0 y0 drawn.length bits acc) :=
      (h.drawColumns x0 bits hfresh le_rfl).congr (spriteCovers_concat x0 y0 drawn bits)
    have hrest := ih hrow (by rw [List.length_append, List.length_singleton]; omega)
    rwa [List.append_assoc, List.singleton_append, List.length_append, List.length_singleton] at hrest

/-- Settles O46: the rows are drawn in turn, from the buffer with nothing flipped. -/
theorem spriteFlipsCoveredPixels : Obligations.SpriteFlipsCoveredPixels := fun fb x0 y0 rows hlen => by
  have hstart : FlipsExactly fb (SpriteCovers x0 y0 []) (fb, false) :=
    (flipsExactly_none fb).congr fun r c => iff_false_intro (not_spriteCovers_nil x0 y0 r c)
  exact hstart.drawRows rows (by rwa [List.length_nil, Nat.zero_add])

end Sys2Proof.Machine
end

section
/-! PROOFS. Timers: the frames of a write of `DT` and of a write of `ST`, then the moves between a timer and a register
(44 R188 to R190). -/

namespace Sys2Proof.Machine

/-! ## The frames of the timer writes -/

/-- Everything but `DT` is the same: the frame that FX15 is held to (44 R189). -/
def FrameDelay (s t : State) : Prop :=
  SameRegsExcept [] s t ∧ SameMemory s t ∧ SameIndex s t ∧ SameSound s t ∧ t.fb = s.fb ∧ t.stack = s.stack ∧
    t.pc = s.pc ∧ SameRun s t ∧ SameOutside s t

/-- Everything but `ST` is the same: the frame that FX18 is held to (44 R190). -/
def FrameSound (s t : State) : Prop :=
  SameRegsExcept [] s t ∧ SameMemory s t ∧ SameIndex s t ∧ SameDelay s t ∧ t.fb = s.fb ∧ t.stack = s.stack ∧
    t.pc = s.pc ∧ SameRun s t ∧ SameOutside s t

theorem State.writeDelay_frameDelay (s : State) (b : Byte) : FrameDelay s (s.writeDelay b) := by
  simp [FrameDelay, SameRegsExcept, SameMemory, SameIndex, SameSound, SameRun, SameOutside]

theorem State.writeSound_frameSound (s : State) (b : Byte) : FrameSound s (s.writeSound b) := by
  simp [FrameSound, SameRegsExcept, SameMemory, SameIndex, SameDelay, SameRun, SameOutside]

/-! ## What the instructions answer when their operand holds a value -/

theorem exec_ldVxDt {s : State} (hdt : s.delayWritten = true) (x : RegIdx) :
    exec (.ldVxDt x) s = .next (s.writeReg x s.dt) :=
  State.whenReadable_of_readable (i := .ldVxDt x) hdt _

theorem exec_ldDtVx {s : State} {x : RegIdx} (hx : s.regWritten x = true) :
    exec (.ldDtVx x) s = .next (s.writeDelay (s.readReg x)) :=
  State.whenReadable_of_readable (i := .ldDtVx x) hx _

theorem exec_ldStVx {s : State} {x : RegIdx} (hx : s.regWritten x = true) :
    exec (.ldStVx x) s = .next (s.writeSound (s.readReg x)) :=
  State.whenReadable_of_readable (i := .ldStVx x) hx _

/-- Settles O48: each instruction is one write, of a register, of `DT` or of `ST`, with the frame of that write. -/
theorem timerRegistersMove : Obligations.TimerRegistersMove := fun s x => by
  refine ⟨hasWord_wordNumber (Laws.WordNumber.ldVxDt x), hasWord_wordNumber (Laws.WordNumber.ldDtVx x),
    hasWord_wordNumber (Laws.WordNumber.ldStVx x), fun hdt => ?_, fun hx => ⟨?_, ?_⟩⟩
  · obtain ⟨t, hnext, hframe, hpc, hread, -⟩ := exec_writeReg_outcome (exec_ldVxDt hdt x)
    exact ⟨t, hnext, hframe, hpc, hread⟩
  · exact ⟨_, exec_ldDtVx hx, s.writeDelay_dt _, s.writeDelay_delayWritten _, s.writeDelay_frameDelay _⟩
  · exact ⟨_, exec_ldStVx hx, s.writeSound_st _, s.writeSound_soundWritten _, s.writeSound_frameSound _⟩

end Sys2Proof.Machine
end

section
/-! PROOFS. Encoding, both ways: decoding undoes encoding and encoding undoes decoding, the rows of the opcode table,
the words without an operation, and the six operations of `min6` (30 R80 to R94, opcode_table.json). -/

namespace Sys2Proof

/-! ## Decoding undoes encoding -/

/-- A build decodes what the opcode map gives, when it has that operation. -/
theorem decode_eq_ok_iff {o : OpSet} {w : Word} {i : Instr} :
    decode o w = .ok i ↔ decodeFull w = .ok i ∧ i.wf o = true := by
  unfold decode
  cases decodeFull w with
  | error r => simp
  | ok j =>
    simp only [Except.ok.injEq]
    split
    · next hwf => simp only [Except.ok.injEq]; exact ⟨fun e => ⟨e, e ▸ hwf⟩, And.left⟩
    · next hwf => simp only [reduceCtorEq, false_iff]; rintro ⟨rfl, h⟩; exact hwf h

theorem decode_encode {o : OpSet} {i : Instr} (h : i.wf o = true) : decode o (encode i) = .ok i :=
  decode_eq_ok_iff.mpr ⟨decode_full (encode i) ▸ decode_full_encode i, h⟩

/-- Decoding bytes takes the first two as a word, high byte first, and leaves the rest (30 R94). -/
theorem decodeBytes_of_decode {o : OpSet} {hi lo : Byte} {i : Instr} (h : decode o (wordOfBytes hi lo) = .ok i)
    (rest : List Byte) : decodeBytes o (hi :: lo :: rest) = .ok (i, rest) := by
  simp only [decodeBytes, h]

/-- Settles O1: the two bytes of the encoded word make that word again, and it decodes to its instruction. -/
theorem decodeInvertsEncode : Obligations.DecodeInvertsEncode := fun o i rest hwf =>
  decodeBytes_of_decode (by rw [wordOfBytes_high_low]; exact decode_encode hwf) rest

/-! ## Encoding undoes decoding -/

theorem encodeNNN_of_itype {w : Word} {t : BitVec 4} (ht : fieldItype w = t) : encodeNNN t (fieldNNN w) = w :=
  ht ▸ encodeNNN_fields w

theorem encodeXNN_of_itype {w : Word} {t : BitVec 4} (ht : fieldItype w = t) :
    encodeXNN t (fieldX w) (fieldNN w) = w :=
  ht ▸ encodeXNN_fields w

theorem encodeXNN_of_fields {w : Word} {t : BitVec 4} {nn : Byte} (ht : fieldItype w = t) (hnn : fieldNN w = nn) :
    encodeXNN t (fieldX w) nn = w :=
  hnn ▸ encodeXNN_of_itype ht

theorem encodeXYN_of_fields {w : Word} {t n : BitVec 4} (ht : fieldItype w = t) (hn : fieldN w = n) :
    encodeXYN t (fieldX w) (fieldY w) n = w :=
  ht ▸ hn ▸ encodeXYN_fields w

theorem encode_of_decodeItype0 {w : Word} {i : Instr} (h : decodeItype0 w = .ok i) : encode i = w := by
  unfold decodeItype0 at h
  split_ifs at h with hcls hret
  · cases h; exact hcls.symm
  · cases h; exact hret.symm

theorem encode_of_decodeItype8 {w : Word} {i : Instr} (ht : fieldItype w = 0x8#4) (h : decodeItype8 w = .ok i) :
    encode i = w := by
  unfold decodeItype8 at h
  split at h <;> cases h
  all_goals exact encodeXYN_of_fields ht (eq_ofNat_of_toNat ‹_›)

theorem encode_of_decodeItypeE {w : Word} {i : Instr} (ht : fieldItype w = 0xE#4) (h : decodeItypeE w = .ok i) :
    encode i = w := by
  unfold decodeItypeE at h
  split at h <;> cases h
  all_goals exact encodeXNN_of_fields ht (eq_ofNat_of_toNat ‹_›)

theorem encode_of_decodeItypeF {w : Word} {i : Instr} (ht : fieldItype w = 0xF#4) (h : decodeItypeF w = .ok i) :
    encode i = w := by
  unfold decodeItypeF at h
  split at h <;> cases h
  all_goals exact encodeXNN_of_fields ht (eq_ofNat_of_toNat ‹_›)

/-- No two words decode to one instruction: the word is the encoding of what the opcode map gives. -/
theorem encode_of_decodeFull {w : Word} {i : Instr} (h : decodeFull w = .ok i) : encode i = w := by
  unfold decodeFull at h
  split at h
  case h_1 => exact encode_of_decodeItype0 h
  case h_9 ht => exact encode_of_decodeItype8 (eq_ofNat_of_toNat ht) h
  case h_15 ht => exact encode_of_decodeItypeE (eq_ofNat_of_toNat ht) h
  case h_16 ht => exact encode_of_decodeItypeF (eq_ofNat_of_toNat ht) h
  case h_6 ht | h_10 ht =>
    split_ifs at h with hn
    cases h
    exact encodeXYN_of_fields (eq_ofNat_of_toNat ht) hn
  case h_14 ht => cases h; exact encodeXYN_of_fields (eq_ofNat_of_toNat ht) rfl
  case h_2 ht | h_3 ht | h_11 ht | h_12 ht => cases h; exact encodeNNN_of_itype (eq_ofNat_of_toNat ht)
  case h_4 ht | h_5 ht | h_7 ht | h_8 ht | h_13 ht => cases h; exact encodeXNN_of_itype (eq_ofNat_of_toNat ht)
  case h_17 => cases h

/-! ## The rows of the opcode table -/

theorem encodeNNN_and_itype (t : BitVec 4) (a : Addr) : encodeNNN t a &&& 0xF000#16 = encodeNNN t 0 := by
  change (t ++ a) &&& (0xF#4 ++ 0x000#12) = t ++ 0#12
  rw [BitVec.and_append, BitVec.and_zero, show t &&& 0xF#4 = t from BitVec.and_allOnes]

theorem encodeXNN_and_itype (t : BitVec 4) (x : RegIdx) (nn : Byte) :
    encodeXNN t x nn &&& 0xF000#16 = encodeNNN t 0 :=
  encodeNNN_and_itype t _

theorem encodeXYN_and_itype (t : BitVec 4) (x y : RegIdx) (n : BitVec 4) :
    encodeXYN t x y n &&& 0xF000#16 = encodeNNN t 0 :=
  encodeNNN_and_itype t _

theorem encodeXNN_and_itype_nn (t : BitVec 4) (x : RegIdx) (nn : Byte) :
    encodeXNN t x nn &&& 0xF0FF#16 = encodeXNN t 0 nn := by
  change (t ++ ((BitVec.ofFin x : BitVec 4) ++ nn)) &&& (0xF#4 ++ (0x0#4 ++ 0xFF#8)) = t ++ (0#4 ++ nn)
  rw [BitVec.and_append, BitVec.and_append, BitVec.and_zero, show t &&& 0xF#4 = t from BitVec.and_allOnes,
    show nn &&& 0xFF#8 = nn from BitVec.and_allOnes]

theorem encodeXYN_and_itype_n (t : BitVec 4) (x y : RegIdx) (n : BitVec 4) :
    encodeXYN t x y n &&& 0xF00F#16 = encodeXYN t 0 0 n := by
  change (t ++ ((BitVec.ofFin x : BitVec 4) ++ ((BitVec.ofFin y : BitVec 4) ++ n))) &&&
    (0xF#4 ++ (0x0#4 ++ (0x0#4 ++ 0xF#4))) = t ++ (0#4 ++ (0#4 ++ n))
  rw [BitVec.and_append, BitVec.and_append, BitVec.and_append, BitVec.and_zero, BitVec.and_zero,
    show t &&& 0xF#4 = t from BitVec.and_allOnes, show n &&& 0xF#4 = n from BitVec.and_allOnes]

/-- The encoding of an instruction agrees with the pattern of its row under the mask of its row. -/
theorem rowOf_holds_encode (i : Instr) : (rowOf i).holds (encode i) = true := by
  refine beq_iff_eq.mpr ?_
  cases i with
  | cls | ret => rfl
  | jp nnn | call nnn | ldI nnn | jpOffset nnn => exact encodeNNN_and_itype _ _
  | seImm x nn | sneImm x nn | ldImm x nn | addImm x nn | rnd x nn => exact encodeXNN_and_itype _ _ _
  | drw x y n => exact encodeXYN_and_itype _ _ _ _
  | seReg x y | sneReg x y | ldReg x y | orReg x y | andReg x y | xorReg x y | addReg x y | subReg x y | shr x y
  | subnReg x y | shl x y => exact encodeXYN_and_itype_n _ _ _ _
  | skp x | sknp x | ldVxDt x | ldVxK x | ldDtVx x | ldStVx x | addI x | ldFont x | ldBcd x | storeRegs x
  | loadRegs x => exact encodeXNN_and_itype_nn _ _ _

/-- The operands do not choose the row, so that the row of every instruction is one of the 34. -/
theorem rowOf_mem_opcodeTable (i : Instr) : rowOf i ∈ opcodeTable := by
  cases i <;> exact of_decide_eq_true rfl

/-- Settles O2: the word is the encoding of what it decodes to, and an encoding agrees with its row. -/
theorem encodeInvertsDecode : Obligations.EncodeInvertsDecode := fun o w i h => by
  obtain ⟨hfull, hwf⟩ := decode_eq_ok_iff.mp h
  obtain rfl := encode_of_decodeFull hfull
  exact ⟨rfl, hwf, rowOf_holds_encode i, rowOf_mem_opcodeTable i⟩

/-! ## The words without an operation -/

theorem decodeItype0_eq_error_iff (w : Word) :
    decodeItype0 w = .error (.unimplemented w) ↔ w ≠ 0x00E0#16 ∧ w ≠ 0x00EE#16 := by
  unfold decodeItype0
  split_ifs with hcls hret
  · simp [hcls]
  · simp [hret]
  · simp [hcls, hret]

theorem decodeItype8_eq_error_iff (w : Word) :
    decodeItype8 w = .error (.unimplemented w) ↔ w.toNat % 16 ∈ [0x8, 0x9, 0xA, 0xB, 0xC, 0xD, 0xF] := by
  have hlt : w.toNat % 16 < 16 := Nat.mod_lt _ (by decide)
  unfold decodeItype8
  rw [fieldN_toNat]
  interval_cases w.toNat % 16 <;> simp

theorem decodeItypeE_eq_error_iff (w : Word) :
    decodeItypeE w = .error (.unimplemented w) ↔ w.toNat % 256 ∉ [0x9E, 0xA1] := by
  unfold decodeItypeE
  rw [fieldNN_toNat]
  split <;> simp_all

theorem decodeItypeF_eq_error_iff (w : Word) :
    decodeItypeF w = .error (.unimplemented w) ↔
      w.toNat % 256 ∉ [0x07, 0x0A, 0x15, 0x18, 0x1E, 0x29, 0x33, 0x55, 0x65] := by
  unfold decodeItypeF
  rw [fieldNN_toNat]
  split <;> simp_all

/-- Settles O5: the itype chooses the row of R92, and the sub-decoder of that itype says which words it lacks. -/
theorem unimplementedWordsAreThoseOfTheTable : Obligations.UnimplementedWordsAreThoseOfTheTable := fun w => by
  have hlt : w.toNat / 4096 < 16 := by have := w.isLt; omega
  have hzero : w.toNat < 0x1000 ↔ w.toNat / 4096 = 0 := by omega
  have hn : fieldN w = 0#4 ↔ w.toNat % 16 = 0 := by rw [← fieldN_toNat, ← BitVec.toNat_inj]; rfl
  rw [decode_full, hzero]
  unfold decodeFull
  rw [fieldItype_toNat]
  interval_cases w.toNat / 4096 <;>
    simp [decodeItype0_eq_error_iff, decodeItype8_eq_error_iff, decodeItypeE_eq_error_iff, decodeItypeF_eq_error_iff,
      hn]

/-! ## The six operations of `min6` -/

/-- The encoding of one of the six operations is 0x00E0, or its itype is 1, 6, 7, A or D. -/
theorem encode_of_inMin6 {i : Instr} (h : i.inMin6 = true) :
    encode i = 0x00E0#16 ∨ (encode i).toNat / 4096 ∈ [0x1, 0x6, 0x7, 0xA, 0xD] := by
  rw [← fieldItype_toNat]
  cases i with
  | cls => exact .inl rfl
  | jp nnn | ldI nnn => exact .inr (by rw [encode, fieldItype_encodeNNN]; decide)
  | ldImm x nn | addImm x nn => exact .inr (by rw [encode, fieldItype_encodeXNN]; decide)
  | drw x y n => exact .inr (by rw [encode, fieldItype_encodeXYN]; decide)
  | _ => exact absurd h Bool.false_ne_true

theorem decode_min6_of_full {w : Word} {i : Instr} (h : decode .full w = .ok i) (hmin6 : i.inMin6 = true) :
    decode .min6 w = .ok i := by
  obtain ⟨hfull, -⟩ := decode_eq_ok_iff.mp h
  exact decode_eq_ok_iff.mpr ⟨hfull, hmin6⟩

theorem itype_eq_of_div {w : Word} {k : Nat} (h : w.toNat / 4096 = k) : fieldItype w = BitVec.ofNat 4 k :=
  eq_ofNat_of_toNat (fieldItype_toNat w ▸ h)

/-- Settles O6: a build decodes what `full` decodes when it has the operation, and the itype tells which has it. -/
theorem min6DecodesItsSixOperations : Obligations.Min6DecodesItsSixOperations := fun w => by
  refine ⟨⟨?_, ?_⟩, ?_⟩
  · rintro ⟨i, h⟩
    obtain ⟨hfull, hmin6⟩ := decode_eq_ok_iff.mp h
    exact encode_of_decodeFull hfull ▸ encode_of_inMin6 hmin6
  · obtain ⟨jp, -, -, -, ldImm, addImm, ldI, -, -, drw⟩ := plainItypesAlwaysDecode w
    intro h
    simp only [List.mem_cons, List.not_mem_nil, or_false] at h
    rcases h with rfl | h | h | h | h | h
    · exact ⟨.cls, rfl⟩
    · exact ⟨_, decode_min6_of_full (jp (itype_eq_of_div h)) rfl⟩
    · exact ⟨_, decode_min6_of_full (ldImm (itype_eq_of_div h)) rfl⟩
    · exact ⟨_, decode_min6_of_full (addImm (itype_eq_of_div h)) rfl⟩
    · exact ⟨_, decode_min6_of_full (ldI (itype_eq_of_div h)) rfl⟩
    · exact ⟨_, decode_min6_of_full (drw (itype_eq_of_div h)) rfl⟩
  · intro i h
    obtain ⟨hfull, -⟩ := decode_eq_ok_iff.mp h
    exact decode_eq_ok_iff.mpr ⟨hfull, rfl⟩

/-- Settles O7: each word is the encoding of its instruction, or has no row. -/
theorem wordsWrittenOutDecode : Obligations.WordsWrittenOutDecode :=
  ⟨decode_full_encode .ret, decode_full_encode (.call 0x300), decode_full_encode (.seReg 1 2),
    decode_full_encode (.subnReg 15 2), decode_full_encode (.drw 1 2 15), decode_full_encode (.sknp 5),
    decode_full_encode (.loadRegs 15), (unimplementedWordsAreThoseOfTheTable 0x8128#16).mpr (by decide)⟩

end Sys2Proof
end

section
/-! PROOFS. What an instruction does, said once: it reports an operand without a value, or leaves its result. -/

namespace Sys2Proof.Machine

/-- A sprite drawn onto the buffer, then the collision flag in `VF` (43 R173). -/
def State.draw (s : State) (x0 y0 : Byte) (rows : List Byte) : State :=
  { s with fb := (drawSprite s.fb x0 y0 rows).1 }.writeReg vf (flagByte (drawSprite s.fb x0 y0 rows).2)

/-- The state an instruction leaves when everything it reads holds a value. -/
def State.result (s : State) : Instr → State
  | .cls => s.clearDisplay
  | .ret =>
    match s.stack.getLast? with
    | none => s.raise .stackUnderflow (encode .ret)
    | some a => { s with stack := s.stack.dropLast }.setPc a.toNat
  | .jp nnn => s.setPc nnn.toNat
  | .call nnn =>
    if s.stackFull then s.raise .stackOverflow (encode (.call nnn)) else (s.push s.pc).setPc nnn.toNat
  | .seImm x nn => s.skipIf (s.readReg x == nn)
  | .sneImm x nn => s.skipIf (s.readReg x != nn)
  | .seReg x y => s.skipIf (s.readReg x == s.readReg y)
  | .ldImm x nn => s.writeReg x nn
  | .addImm x nn => s.writeReg x (s.readReg x + nn)
  | .ldReg x y => s.writeReg x (s.readReg y)
  | .orReg x y => s.writeLogic x (s.readReg x ||| s.readReg y)
  | .andReg x y => s.writeLogic x (s.readReg x &&& s.readReg y)
  | .xorReg x y => s.writeLogic x (s.readReg x ^^^ s.readReg y)
  | .addReg x y => s.writeWithFlag x (s.readReg x + s.readReg y) (carryFlag (s.readReg x) (s.readReg y))
  | .subReg x y => s.writeWithFlag x (s.readReg x - s.readReg y) (notBorrowFlag (s.readReg x) (s.readReg y))
  | .shr x y => s.writeWithFlag x (s.readReg (s.shiftReg x y) >>> 1) (lowBitFlag (s.readReg (s.shiftReg x y)))
  | .subnReg x y => s.writeWithFlag x (s.readReg y - s.readReg x) (notBorrowFlag (s.readReg y) (s.readReg x))
  | .shl x y => s.writeWithFlag x (s.readReg (s.shiftReg x y) <<< 1) (highBitFlag (s.readReg (s.shiftReg x y)))
  | .sneReg x y => s.skipIf (s.readReg x != s.readReg y)
  | .ldI nnn => s.writeIndex (nnn.setWidth 16)
  | .jpOffset nnn => s.setPc (nnn.toNat + (s.readReg (s.jumpReg nnn)).toNat)
  | .rnd x nn => s.afterRand.writeReg x (s.randSample &&& nn)
  | .drw x y n => s.draw (s.readReg x) (s.readReg y) (s.spriteBytes n.val)
  | .skp x => s.skipIf (s.keyPressed (keyIndex (s.readReg x)))
  | .sknp x => s.skipIf (!s.keyPressed (keyIndex (s.readReg x)))
  | .ldVxDt x => s.writeReg x s.dt
  | .ldVxK x =>
    match s.keysAtStart with
    | k :: rest => s.takeKey x k rest
    | [] => s.keepWaiting x
  | .ldDtVx x => s.writeDelay (s.readReg x)
  | .ldStVx x => s.writeSound (s.readReg x)
  | .addI x => s.writeIndex (s.i + (s.readReg x).setWidth 16)
  | .ldFont x => s.writeIndex (s.glyphAddr (s.readReg x))
  | .ldBcd x => s.memWriteList (s.dataAddr 0) (bcdDigits (s.readReg x))
  | .storeRegs x => (s.memWriteList (s.dataAddr 0) (s.regsUpTo x)).stepIndex x
  | .loadRegs x => (s.writeRegList 0 (s.memReadList (s.dataAddr 0) (x.val + 1))).stepIndex x

/-- Every instruction checks what it reads and then leaves its result (60 R204, R205). -/
theorem exec_eq_whenReadable (i : Instr) (s : State) : exec i s = s.whenReadable i (s.result i) := by
  cases i
  case ret =>
    simp only [exec, execRet, State.result, State.whenReadable, State.readable, if_true]
    generalize s.stack.getLast? = top
    cases top <;> rfl
  case call nnn =>
    simp only [exec, execCall, State.result, State.whenReadable, State.readable, if_true]
    split <;> rfl
  case ldVxK x =>
    simp only [exec, execLdVxK, State.result, State.whenReadable, State.readable, if_true]
    generalize s.keysAtStart = keys
    cases keys <;> rfl
  all_goals rfl

theorem exec_of_readable {i : Instr} {s : State} (h : s.readable i = true) : exec i s = .next (s.result i) :=
  (exec_eq_whenReadable i s).trans (State.whenReadable_of_readable h _)

/-- Everything an instruction can do. -/
theorem exec_cases {i : Instr} {s t : State} (h : exec i s = .next t) :
    (s.readable i = false ∧ t = s.raise .unwrittenRead (encode i)) ∨ (s.readable i = true ∧ t = s.result i) := by
  rw [exec_eq_whenReadable] at h
  rcases s.whenReadable_cases i (s.result i) with ⟨hr, e⟩ | ⟨hr, e⟩
  · exact .inr ⟨hr, by cases e.symm.trans h; rfl⟩
  · exact .inl ⟨hr, by cases e.symm.trans h; rfl⟩

/-- Everything a return can do (40 R101). -/
theorem State.result_ret_cases (s : State) :
    (s.stack = [] ∧ s.result .ret = s.raise .stackUnderflow (encode .ret)) ∨
      ∃ older a, s.stack = older ++ [a] ∧ s.result .ret = { s with stack := older }.setPc a.toNat := by
  rcases List.eq_nil_or_concat s.stack with h | ⟨older, a, h⟩
  · exact .inl ⟨h, by simp only [State.result, h, List.getLast?_nil]⟩
  · exact .inr ⟨older, a, by simpa using h, by simp [State.result, h]⟩

/-- Everything a call can do (40 R103). -/
theorem State.result_call_cases (s : State) (nnn : Addr) :
    (s.stackFull = true ∧ s.result (.call nnn) = s.raise .stackOverflow (encode (.call nnn))) ∨
      (s.stackFull = false ∧ s.result (.call nnn) = (s.push s.pc).setPc nnn.toNat) := by
  cases h : s.stackFull
  · exact .inr ⟨rfl, by simp [State.result, h]⟩
  · exact .inl ⟨rfl, by simp [State.result, h]⟩

/-- Everything the first step of a key wait can do (44 R191). -/
theorem State.result_ldVxK_cases (s : State) (x : RegIdx) :
    (∃ k rest, s.keysAtStart = k :: rest ∧ s.result (.ldVxK x) = s.takeKey x k rest) ∨
      (s.keysAtStart = [] ∧ s.result (.ldVxK x) = s.keepWaiting x) := by
  cases h : s.keysAtStart with
  | nil => exact .inr ⟨rfl, by simp only [State.result, h]⟩
  | cons k rest => exact .inl ⟨k, rest, rfl, by simp only [State.result, h]⟩

/-- Everything a poll of a key wait can do (44 R192). -/
theorem State.keyWaitPoll_cases (s : State) (x : RegIdx) :
    (∃ k rest, s.keysAtPoll = k :: rest ∧ s.keyWaitPoll x = s.takeKey x k rest) ∨
      (s.keysAtPoll = [] ∧ s.keyWaitPoll x = s.keepWaiting x) := by
  cases h : s.keysAtPoll with
  | nil => exact .inr ⟨rfl, by simp only [State.keyWaitPoll, h]⟩
  | cons k rest => exact .inl ⟨k, rest, rfl, by simp only [State.keyWaitPoll, h]⟩

end Sys2Proof.Machine
end

section
/-! PROOFS. The invariant: every update of the state that a step is made of keeps it, so that every step does (10 R27,
R42; 00 R8, R9; 60 R200, R206). -/

namespace Sys2Proof.Machine

variable {s : State}

/-! ## The updates that touch no field of the invariant, or only `written` -/

/-- The fields that the invariant speaks of, `written` apart. -/
def State.invFields (s : State) : Params × Memory × Word × List Word × Cpu × Status × Word :=
  (s.params, s.mem, s.pc, s.stack, s.cpu, s.status, s.keyPrev)

theorem State.tracksWrites_of_zero (h : s.params.resetPolicy = .zero) : s.tracksWrites = false := by
  simp [State.tracksWrites, h]

/-- An update of other fields that also sets `written` bits, none of memory, and only where they are tracked. -/
theorem State.Inv.of_marks {t : State} {marks : WrittenBits} (h : s.Inv) (hfields : t.invFields = s.invFields)
    (hwritten : t.written = if s.tracksWrites then marks else s.written) (hmem : marks.mem = s.written.mem) :
    t.Inv := by
  have hzero (h0 : s.params.resetPolicy = .zero) : t.written = s.written := by
    rw [hwritten, State.tracksWrites_of_zero h0, if_neg Bool.false_ne_true]
  have hsame : t.written.mem = s.written.mem := by
    rw [hwritten]
    split
    · exact hmem
    · rfl
  obtain ⟨⟩ := t
  cases hfields
  refine { h with
    written_zero := fun h0 => (hzero h0).trans (h.written_zero h0), written_rising := ?_
    listed_written := fun c hc => ?_ }
  · rw [hsame]
    exact h.written_rising
  · rw [State.memWritten, hsame]
    exact h.listed_written c hc

theorem State.Inv.setFb (h : s.Inv) (fb : Framebuffer) : ({ s with fb := fb } : State).Inv := { h with }

theorem State.Inv.afterRand (h : s.Inv) : s.afterRand.Inv := { h with }

theorem State.Inv.writeReg (h : s.Inv) (r : RegIdx) (b : Byte) : (s.writeReg r b).Inv := h.of_marks rfl rfl rfl

theorem State.Inv.writeIndex (h : s.Inv) (w : Word) : (s.writeIndex w).Inv := h.of_marks rfl rfl rfl

theorem State.Inv.writeDelay (h : s.Inv) (b : Byte) : (s.writeDelay b).Inv := h.of_marks rfl rfl rfl

theorem State.Inv.writeSound (h : s.Inv) (b : Byte) : (s.writeSound b).Inv := h.of_marks rfl rfl rfl

theorem State.Inv.writeWithFlag (h : s.Inv) (x : RegIdx) (result flag : Byte) : (s.writeWithFlag x result flag).Inv :=
  (h.writeReg x result).writeReg vf flag

theorem State.Inv.writeLogic (h : s.Inv) (x : RegIdx) (result : Byte) : (s.writeLogic x result).Inv := by
  unfold State.writeLogic
  split
  · exact h.writeWithFlag x result 0
  · exact h.writeReg x result

theorem State.Inv.writeRegList (h : s.Inv) (k : Nat) (l : List Byte) : (s.writeRegList k l).Inv :=
  State.writeRegList_induct (fun _ r b h => h.writeReg r b) h k l

theorem State.Inv.stepIndex (h : s.Inv) (x : RegIdx) : (s.stepIndex x).Inv := by
  unfold State.stepIndex
  split
  · exact h.writeIndex _
  · exact h

/-! ## Memory -/

/-- A store lists at most its own byte anew, which it marks as written (10 R42). -/
theorem State.Inv.memWrite (h : s.Inv) (a : Nat) (b : Byte) : (s.memWrite a b).Inv := by
  refine { h with
    mem_canonical := State.memWrite_wf h.mem_canonical a b
    written_zero := fun hzero => ?_, written_rising := ?_, listed_written := fun c hc => ?_ }
  · have huntracked : s.tracksWrites = false := State.tracksWrites_of_zero hzero
    simpa [State.memWrite, huntracked] using h.written_zero hzero
  · obtain ⟨hrising, hbelow⟩ : s.written.mem.Pairwise (· < ·) ∧ ∀ a ∈ s.written.mem, a < 4096 := by
      simpa [addressesWf] using h.written_rising
    rw [State.memWrite_written_mem]
    split
    · have hbelow' : ∀ c ∈ addAddress s.written.mem (decodeAddr a), c < 4096 := fun c hc => by
        rcases mem_addAddress.mp hc with rfl | hc
        · exact decodeAddr_lt a
        · exact hbelow c hc
      simpa [addressesWf] using ⟨addAddress_rising hrising (decodeAddr a), hbelow'⟩
    · exact h.written_rising
  · rw [State.memWritten_memWrite, Bool.or_eq_true, decide_eq_true_eq]
    rcases Memory.mem_write hc with hnew | hold
    · exact .inl (by rw [hnew, decodeAddr_idem])
    · exact .inr (h.listed_written c hold)

theorem State.Inv.memWriteList (h : s.Inv) (a : Nat) (l : List Byte) : (s.memWriteList a l).Inv :=
  State.memWriteList_induct (fun _ a b h => h.memWrite a b) h a l

/-! ## `PC`, the stack, and the reports -/

theorem State.Inv.setPc (h : s.Inv) (a : Nat) : (s.setPc a).Inv := { h with pc_below := pcValue_lt a }

theorem State.Inv.skipIf (h : s.Inv) (c : Bool) : (s.skipIf c).Inv := by
  unfold State.skipIf
  split
  · exact h.setPc _
  · exact h

theorem State.Inv.push (h : s.Inv) (hroom : s.stackFull = false) : (s.push s.pc).Inv := by
  refine { h with stack_below := fun a ha => ?_, stack_within := ?_ }
  · rcases List.mem_append.mp ha with ha | ha
    · exact h.stack_below a ha
    · rw [List.mem_singleton.mp ha]
      exact h.pc_below
  · unfold State.stackFull at hroom
    simp only [State.stackWithinCap, State.push_params, State.push_stack, List.length_append, List.length_singleton]
    split
    · rfl
    · next cap hcap => simpa [hcap] using hroom

theorem State.Inv.pop (h : s.Inv) {older : List Word} {a : Word} (hstack : s.stack = older ++ [a]) :
    ({ s with stack := older } : State).Inv := by
  refine { h with stack_below := fun b hb => h.stack_below b (by simp [hstack, hb]), stack_within := ?_ }
  have hwithin := h.stack_within
  simp only [State.stackWithinCap, hstack, List.length_append, List.length_singleton] at hwithin ⊢
  split
  · rfl
  · next cap hcap =>
    simp only [hcap, decide_eq_true_eq] at hwithin ⊢
    omega

/-- A condition is reported by a core that is ready: it halts, or stays ready (60 R206). -/
theorem State.Inv.raise (h : s.Inv) (hready : s.cpu = .ready) (c : Condition) (w : Word) : (s.raise c w).Inv := by
  refine { h with halted_policy := fun hhalted => ?_, status_agrees := ?_ }
  · rcases s.raise_cpu c w with ⟨hpolicy, -⟩ | ⟨-, e⟩
    · exact hpolicy
    · rw [e, hready] at hhalted
      cases hhalted
  · rcases s.raise_cpu c w with ⟨-, e⟩ | ⟨-, e⟩
    · simp only [State.statusAgrees, e, State.raise_status]
    · simp only [State.statusAgrees, e, hready, State.raise_status]

theorem State.Inv.afterFetch (h : s.Inv) (hready : s.cpu = .ready) : s.afterFetch.Inv := by
  refine { h with pc_below := pcValue_lt _, status_agrees := ?_ }
  simp only [State.statusAgrees, State.afterFetch_cpu, hready, State.afterFetch_status]

theorem State.Inv.reportHalted (h : s.Inv) (hhalted : s.cpu = .halted) : s.reportHalted.Inv := by
  refine { h with status_agrees := ?_ }
  simp only [State.statusAgrees, State.reportHalted_cpu, hhalted, State.reportHalted_status]

theorem State.Inv.takeKey (h : s.Inv) (x k : RegIdx) (rest : List RegIdx) : (s.takeKey x k rest).Inv := by
  have hready : ({ s with cpu := .ready }.reportOk.afterKeyDraw).Inv :=
    { h with halted_policy := nofun, status_agrees := rfl }
  exact hready.writeReg x _

theorem State.Inv.keepWaiting (h : s.Inv) (x : RegIdx) : (s.keepWaiting x).Inv := by
  refine { h with halted_policy := nofun, status_agrees := rfl, keyPrev_level := fun hlevel => ?_ }
  have hlevel : s.params.keyWait = .level := hlevel
  simpa [State.keepWaiting, State.reportWaiting, hlevel] using h.keyPrev_level hlevel

/-! ## The obligations -/

/-- A ready core keeps the invariant under every instruction: its result is made of the updates above. -/
theorem State.Inv.result (h : s.Inv) (hready : s.cpu = .ready) (i : Instr) : (s.result i).Inv := by
  cases i with
  | cls => exact h.setFb _
  | ret =>
    rcases s.result_ret_cases with ⟨-, e⟩ | ⟨older, a, hstack, e⟩
    · exact e ▸ h.raise hready _ _
    · exact e ▸ (h.pop hstack).setPc _
  | call nnn =>
    rcases s.result_call_cases nnn with ⟨-, e⟩ | ⟨hroom, e⟩
    · exact e ▸ h.raise hready _ _
    · exact e ▸ (h.push hroom).setPc _
  | ldVxK x =>
    rcases s.result_ldVxK_cases x with ⟨k, rest, -, e⟩ | ⟨-, e⟩
    · exact e ▸ h.takeKey x k rest
    · exact e ▸ h.keepWaiting x
  | jp nnn | jpOffset nnn => exact h.setPc _
  | seImm x nn | sneImm x nn | seReg x y | sneReg x y | skp x | sknp x => exact h.skipIf _
  | ldImm x nn | addImm x nn | ldReg x y | ldVxDt x => exact h.writeReg x _
  | rnd x nn => exact h.afterRand.writeReg x _
  | drw x y n => exact (h.setFb _).writeReg vf _
  | orReg x y | andReg x y | xorReg x y => exact h.writeLogic x _
  | addReg x y | subReg x y | shr x y | subnReg x y | shl x y => exact h.writeWithFlag x _ _
  | ldI nnn | addI x | ldFont x => exact h.writeIndex _
  | ldDtVx x => exact h.writeDelay _
  | ldStVx x => exact h.writeSound _
  | ldBcd x => exact h.memWriteList _ _
  | storeRegs x => exact (h.memWriteList _ _).stepIndex x
  | loadRegs x => exact (h.writeRegList _ _).stepIndex x

theorem State.Inv.exec {i : Instr} {t : State} (h : s.Inv) (hready : s.cpu = .ready) (ht : exec i s = .next t) :
    t.Inv := by
  rcases exec_cases ht with ⟨-, rfl⟩ | ⟨-, rfl⟩
  · exact h.raise hready _ _
  · exact h.result hready i

theorem State.Inv.fetchDecodeExecute {t : State} (h : s.Inv) (hready : s.cpu = .ready)
    (ht : fetchDecodeExecute s = .next t) : t.Inv := by
  have hfetched : s.afterFetch.Inv := h.afterFetch hready
  rcases fetchDecodeExecute_cases s with ⟨-, e⟩ | ⟨-, -, e⟩ | ⟨-, i, -, e⟩
  · cases e.symm.trans ht
    exact hfetched.raise hready _ _
  · cases e.symm.trans ht
    exact hfetched.raise hready _ _
  · exact hfetched.exec hready (e.symm.trans ht)

theorem State.Inv.instrTick {t : State} (h : s.Inv) (ht : instrTick s = .next t) : t.Inv := by
  have hclosed : s.closeLoad.Inv := { h with }
  cases hcpu : s.cpu with
  | halted =>
    cases (instrTick_of_halted hcpu).symm.trans ht
    exact hclosed.reportHalted hcpu
  | waiting x =>
    cases (instrTick_of_waiting hcpu).symm.trans ht
    rcases s.closeLoad.keyWaitPoll_cases x with ⟨k, rest, -, e⟩ | ⟨-, e⟩
    · exact e ▸ hclosed.takeKey x k rest
    · exact e ▸ hclosed.keepWaiting x
  | ready => exact hclosed.fetchDecodeExecute hcpu ((instrTick_of_ready hcpu).symm.trans ht)

/-- The reset state of a legal build: nothing is listed, pushed or written. -/
theorem resetWith_inv {p : Params} (hp : p.wf = true) : (State.resetWith p).Inv where
  params_legal := hp
  mem_canonical := rfl
  pc_below := (by decide : (0x0200#16).toNat < 4096)
  stack_below := nofun
  stack_within := by
    simp only [State.stackWithinCap, State.resetWith, List.length_nil, Nat.zero_le, decide_true]
    split <;> rfl
  halted_policy := nofun
  status_agrees := rfl
  keyPrev_level := fun _ => rfl
  written_zero := fun _ => rfl
  written_rising := rfl
  listed_written := nofun

/-- Settles O18: the default build is one of the legal ones. -/
theorem resetHasTheInvariant : Obligations.ResetHasTheInvariant := ⟨resetWith_inv (by decide), fun _ => resetWith_inv⟩

/-- What an accepted write through the loader's port is (70 R232). -/
theorem loadByte_eq_next {a : Addr} {b : Byte} {t : State} (h : loadByte a b s = .next t) :
    t = s.memWrite a.toNat b := by
  unfold loadByte at h
  split_ifs at h
  cases h
  rfl

/-- What an accepted deposit of an image is (70 R232). -/
theorem loadImage_eq_next {image : List Byte} {t : State} (h : loadImage image s = .next t) :
    t = s.memWriteList 0x200 image := by
  unfold loadImage at h
  split_ifs at h
  cases h
  rfl

theorem State.Inv.agentMove {m : HostMove} {t : State} (h : s.Inv) (ht : agentMove m s = .next t) : t.Inv := by
  cases m with
  | instrTick => exact h.instrTick ht
  | timerTick | setKeys keys | fbRead r c => cases ht; exact { h with }
  | loadByte a b => exact loadByte_eq_next ht ▸ h.memWrite _ _
  | load image => exact loadImage_eq_next ht ▸ h.memWriteList _ _
  | rst => cases ht; exact { resetWith_inv h.params_legal with }

/-- Settles O17: a step is one move of an agent, and each keeps the invariant. -/
theorem stepKeepsTheInvariant : Obligations.StepKeepsTheInvariant := fun s t h ht => by
  rw [step_of_legal h.params_legal] at ht
  cases hmoves : s.inputs.moves with
  | nil => exact h.instrTick (nextMove_of_empty hmoves ▸ ht)
  | cons m rest =>
    have hqueue : (s.withMoves rest).Inv := { h with }
    exact hqueue.agentMove (nextMove_of_move hmoves ▸ ht)

end Sys2Proof.Machine
end

section
/-! PROOFS. Rules over all instructions: what an instruction reads, what it reports, which registers and which other
state it writes, and which parameters it ignores (10 R24 to R38, 60 R200 to R206, 00 R10). -/

namespace Sys2Proof.Machine

/-! ## What an instruction reads -/

/-- `nnn[11:8]` as a register index (40 R108). -/
theorem addr_highNibble_val (nnn : Addr) : ((nnn.extractLsb' 8 4).toFin : RegIdx).val = nnn.toNat / 256 := by
  have hlt : nnn.toNat < 4096 := nnn.isLt
  show (nnn.extractLsb' 8 4).toNat = nnn.toNat / 256
  rw [BitVec.extractLsb'_toNat, Nat.shiftRight_eq_div_pow]
  omega

theorem regsReadBy_shr (s : State) (x y : RegIdx) : regsReadBy s.params (.shr x y) = [s.shiftReg x y] := by
  unfold regsReadBy State.shiftReg
  cases s.params.shiftSrc <;> rfl

theorem regsReadBy_shl (s : State) (x y : RegIdx) : regsReadBy s.params (.shl x y) = [s.shiftReg x y] :=
  regsReadBy_shr s x y

theorem regsReadBy_jpOffset (s : State) (nnn : Addr) : regsReadBy s.params (.jpOffset nnn) = [s.jumpReg nnn] := by
  have hlt : nnn.toNat < 4096 := nnn.isLt
  have hx : Fin.ofNat 16 (nnn.toNat / 256) = (nnn.extractLsb' 8 4).toFin :=
    Fin.ext ((Nat.mod_eq_of_lt (by omega)).trans (addr_highNibble_val nnn).symm)
  unfold regsReadBy State.jumpReg
  cases s.params.jumpOffsetReg
  · rfl
  · exact congrArg (fun r => [r]) hx

theorem State.dataAddr_zero_add (s : State) (k : Nat) : s.dataAddr 0 + k = s.dataAddr k := rfl

/-- The positive reading of the tables: every item that the instruction reads holds a value. -/
theorem not_readsUnwritten_iff (i : Instr) (s : State) :
    ¬ ReadsUnwritten i s ↔ (∀ r ∈ regsReadBy s.params i, s.regWritten r = true) ∧
      (ReadsIndex i → s.indexWritten = true) ∧ ((∃ x, i = .ldVxDt x) → s.delayWritten = true) ∧
      ∀ k, ReadsByte i k → s.memWritten (s.dataAddr k) = true := by
  simp only [ReadsUnwritten, not_or, not_exists, not_and, Bool.not_eq_false]

/-- The check before an instruction is that of the tables (60 R204). -/
theorem readable_iff (i : Instr) (s : State) : s.readable i = true ↔ ¬ ReadsUnwritten i s := by
  rw [not_readsUnwritten_iff]
  cases i with
  | shr x y => simp [State.readable, ReadsIndex, ReadsByte, regsReadBy_shr]
  | shl x y => simp [State.readable, ReadsIndex, ReadsByte, regsReadBy_shl]
  | jpOffset nnn => simp [State.readable, ReadsIndex, ReadsByte, regsReadBy_jpOffset]
  | drw x y n =>
    simp [State.readable, ReadsIndex, ReadsByte, regsReadBy, State.memWrittenRun_iff, State.dataAddr_zero_add,
      and_assoc]
  | addI x => simp [State.readable, ReadsIndex, ReadsByte, regsReadBy, and_comm]
  | storeRegs x => simp [State.readable, ReadsIndex, ReadsByte, regsReadBy, State.regsWrittenUpTo_iff]
  | loadRegs x =>
    simp [State.readable, ReadsIndex, ReadsByte, regsReadBy, State.memWrittenRun_iff, State.dataAddr_zero_add]
  | _ => simp [State.readable, ReadsIndex, ReadsByte, regsReadBy]

theorem readable_eq_false_iff (i : Instr) (s : State) : s.readable i = false ↔ ReadsUnwritten i s := by
  rw [← Bool.not_eq_true, readable_iff, not_not]

/-- Under `RESET_POLICY = zero` no item lacks a value (10 R42). -/
theorem not_readsUnwritten_of_zero {s : State} (h : s.params.resetPolicy = .zero) (i : Instr) :
    ¬ ReadsUnwritten i s := by
  have huntracked : s.tracksWrites = false := State.tracksWrites_of_zero h
  simp [not_readsUnwritten_iff, State.regWritten, State.indexWritten, State.delayWritten, State.memWritten, huntracked]

/-! ## What an instruction reports -/

theorem exec_of_unreadable {i : Instr} {s : State} (h : s.readable i = false) :
    exec i s = .next (s.raise .unwrittenRead (encode i)) := by
  rw [exec_eq_whenReadable, State.whenReadable, h, if_neg Bool.false_ne_true]

/-- Reporting a condition sets `Status` and `Cpu`, and nothing else (60 R205, R206). -/
theorem State.raise_eq (s : State) (c : Condition) (w : Word) :
    s.raise c w = { s with status := ⟨.reported c, w⟩, cpu := s.cpuAfterCondition } := rfl

theorem State.conditionReported_iff (s : State) : s.conditionReported = true ↔ ∃ c, s.status.code = .reported c := by
  unfold State.conditionReported
  cases s.status.code <;> simp

/-- A result reports a condition of the stack, or keeps `cond_word` and reports no condition anew. -/
theorem State.result_status_cases (s : State) (i : Instr) :
    (∃ c, c ≠ .unwrittenRead ∧ s.result i = s.raise c (encode i)) ∨
      ((s.result i).status.word = s.status.word ∧
        ((s.result i).status.code = s.status.code ∨ (s.result i).conditionReported = false)) := by
  cases i with
  | ret =>
    rcases s.result_ret_cases with ⟨-, e⟩ | ⟨older, a, -, e⟩
    · exact .inl ⟨_, by decide, e⟩
    · exact .inr (e ▸ ⟨rfl, .inl rfl⟩)
  | call nnn =>
    rcases s.result_call_cases nnn with ⟨-, e⟩ | ⟨-, e⟩
    · exact .inl ⟨_, by decide, e⟩
    · exact .inr (e ▸ ⟨rfl, .inl rfl⟩)
  | ldVxK x =>
    rcases s.result_ldVxK_cases x with ⟨k, rest, -, e⟩ | ⟨-, e⟩
    · exact .inr (e ▸ ⟨rfl, .inr rfl⟩)
    · exact .inr (e ▸ ⟨rfl, .inr rfl⟩)
  | drw x y n => exact .inr ⟨rfl, .inl rfl⟩
  | _ => exact .inr (by simp [State.result])

/-- An instruction reports a condition with its word, or keeps `cond_word` and reports no condition anew. -/
theorem exec_status_cases {i : Instr} {s t : State} (h : exec i s = .next t) :
    (∃ c, t = s.raise c (encode i)) ∨
      (t.status.word = s.status.word ∧ (t.status.code = s.status.code ∨ t.conditionReported = false)) := by
  rcases exec_cases h with ⟨-, rfl⟩ | ⟨-, rfl⟩
  · exact .inl ⟨_, rfl⟩
  · exact (s.result_status_cases i).imp_left fun ⟨c, _, e⟩ => ⟨c, e⟩

/-- Settles O12: a condition is reported by `raise`, since no other effect of an instruction reports one anew. -/
theorem conditionsArePrecise : Obligations.ConditionsArePrecise := fun i s t hs h ht => by
  rcases exec_status_cases h with ⟨c, rfl⟩ | ⟨-, hcode | hnone⟩
  · exact ⟨s.raise_eq c _, rfl⟩
  · rw [State.conditionReported_iff, hcode, ← State.conditionReported_iff, hs] at ht
    cases ht
  · rw [hnone] at ht
    cases ht

/-- Settles O13: the check is that of the tables; it fails into `raise`, and no result reports `UnwrittenRead`. -/
theorem unwrittenReadStopsTheInstruction : Obligations.UnwrittenReadStopsTheInstruction := fun i s => by
  refine ⟨readable_eq_false_iff i s, fun h => ?_, fun h hok => ⟨s.result i, ?_, fun hreported => ?_⟩,
    fun h => not_readsUnwritten_of_zero h i⟩
  · rw [exec_of_unreadable ((readable_eq_false_iff i s).mpr h), State.raise_eq]
  · exact exec_of_readable ((readable_iff i s).mpr h)
  · rcases s.result_status_cases i with ⟨c, hc, e⟩ | ⟨-, hcode | hnone⟩
    · rw [e] at hreported
      exact hc (StatusCode.reported.inj hreported)
    · rw [hcode, hok] at hreported
      cases hreported
    · rw [(State.conditionReported_iff _).mpr ⟨_, hreported⟩] at hnone
      cases hnone

/-! ## Which registers an instruction writes -/

theorem SameRegsExcept.of_same {dst : List RegIdx} {s t : State} (h : ∀ r, t.readReg r = s.readReg r)
    (hw : ∀ r, t.regWritten r = s.regWritten r) : SameRegsExcept dst s t := fun r _ => ⟨h r, hw r⟩

theorem State.writeReg_sameRegsExcept (s : State) (x : RegIdx) (b : Byte) : SameRegsExcept [x] s (s.writeReg x b) :=
  (s.writeReg_frameRegs x b).1

theorem State.writeWithFlag_sameRegsExcept (s : State) (x : RegIdx) (result flag : Byte) :
    SameRegsExcept [x, vf] s (s.writeWithFlag x result flag) :=
  (s.writeWithFlag_frameRegs x result flag).1

theorem State.writeLogic_frameRegs (s : State) (x : RegIdx) (result : Byte) :
    FrameRegs (if s.params.logicVfReset then [x, vf] else [x]) s (s.writeLogic x result) := by
  unfold State.writeLogic
  split
  · exact s.writeWithFlag_frameRegs x result 0
  · exact s.writeReg_frameRegs x result

theorem State.writeRegList_sameAbove (s : State) (x : RegIdx) {l : List Byte} (hl : l.length = x.val + 1)
    {r : RegIdx} (hr : x < r) :
    (s.writeRegList 0 l).readReg r = s.readReg r ∧ (s.writeRegList 0 l).regWritten r = s.regWritten r := by
  have hx : x.val < r.val := hr
  have hlt : r.val < 16 := r.isLt
  have hout : ¬ (0 ≤ r.val ∧ r.val < 0 + l.length) := by omega
  rw [s.readReg_writeRegList 0 l (by omega), s.regWritten_writeRegList 0 l (by omega), dif_neg hout,
    decide_eq_false hout, Bool.false_or]
  exact ⟨rfl, rfl⟩

theorem State.result_sameRegsExcept (s : State) (i : Instr) :
    SameRegsExcept (regsWrittenBy s.params i) s (s.result i) := by
  cases i with
  | ret =>
    rcases s.result_ret_cases with ⟨-, e⟩ | ⟨older, a, -, e⟩
    · exact e ▸ .of_same (fun _ => rfl) fun _ => rfl
    · exact e ▸ .of_same (fun _ => rfl) fun _ => rfl
  | call nnn =>
    rcases s.result_call_cases nnn with ⟨-, e⟩ | ⟨-, e⟩
    · exact e ▸ .of_same (fun _ => rfl) fun _ => rfl
    · exact e ▸ .of_same (fun _ => rfl) fun _ => rfl
  | ldVxK x =>
    rcases s.result_ldVxK_cases x with ⟨k, rest, -, e⟩ | ⟨-, e⟩
    · exact e ▸ State.writeReg_sameRegsExcept _ x _
    · exact e ▸ .of_same (fun _ => rfl) fun _ => rfl
  | ldImm x nn | addImm x nn | ldReg x y | ldVxDt x => exact s.writeReg_sameRegsExcept x _
  | rnd x nn => exact s.afterRand.writeReg_sameRegsExcept x _
  | drw x y n => exact State.writeReg_sameRegsExcept _ vf _
  | orReg x y | andReg x y | xorReg x y => exact (s.writeLogic_frameRegs x _).1
  | addReg x y | subReg x y | shr x y | subnReg x y | shl x y => exact s.writeWithFlag_sameRegsExcept x _ _
  | loadRegs x =>
    intro r hr
    have habove : x < r := by simpa [regsWrittenBy] using hr
    have hsame := s.writeRegList_sameAbove x (s.memReadList_length (s.dataAddr 0) (x.val + 1)) habove
    simpa only [State.result, State.stepIndex_readReg, State.stepIndex_regWritten] using hsame
  | _ => exact .of_same (by simp [State.result]) (by simp [State.result])

/-- Settles O56: a report writes no register, and a result only those of its instruction. -/
theorem registersHaveTheirWriters : Obligations.RegistersHaveTheirWriters := fun i s t h => by
  rcases exec_cases h with ⟨-, rfl⟩ | ⟨-, rfl⟩
  · exact .of_same (fun _ => rfl) fun _ => rfl
  · exact s.result_sameRegsExcept i

/-! ## Which other state an instruction writes -/

/-- Registers, `PC`, `Cpu`, `Status` and the inputs apart, `t` differs from `s` only in state that `i` is a writer of
(10 R25, R34 to R38, 20 R63, 44 R191). -/
def KeepsUnlessWritten (i : Instr) (s t : State) : Prop :=
  ((∀ x, i ≠ .ldBcd x ∧ i ≠ .storeRegs x) → SameMemory s t) ∧
    ((∀ x y n, i ≠ .cls ∧ i ≠ .drw x y n) → t.fb = s.fb) ∧
    ((∀ a, i ≠ .ret ∧ i ≠ .call a) → t.stack = s.stack) ∧
    ((∀ a x, i ≠ .ldI a ∧ i ≠ .addI x ∧ i ≠ .ldFont x ∧ i ≠ .storeRegs x ∧ i ≠ .loadRegs x) → SameIndex s t) ∧
    ((∀ x, i ≠ .ldDtVx x) → SameDelay s t) ∧ ((∀ x, i ≠ .ldStVx x) → SameSound s t) ∧
    ((∀ x, i ≠ .ldVxK x) → t.keyPrev = s.keyPrev) ∧ t.keys = s.keys ∧ t.params = s.params ∧ t.beep = s.beep ∧
    t.loadOpen = s.loadOpen

/-- What writes only registers, and perhaps `PC`, keeps all of it. -/
theorem FrameRegs.keepsUnlessWritten {dst : List RegIdx} {s t : State} (h : FrameRegs dst s t) (i : Instr) :
    KeepsUnlessWritten i s t := by
  obtain ⟨-, hmem, hindex, hdelay, hsound, hfb, hstack, -, hparams, hkeys, hkeyPrev, hbeep, hload⟩ := h
  exact ⟨fun _ => hmem, fun _ => hfb, fun _ => hstack, fun _ => hindex, fun _ => hdelay, fun _ => hsound,
    fun _ => hkeyPrev, hkeys, hparams, hbeep, hload⟩

theorem State.raise_keepsUnlessWritten (s : State) (c : Condition) (w : Word) (i : Instr) :
    KeepsUnlessWritten i s (s.raise c w) := by
  simp [KeepsUnlessWritten, SameMemory, SameIndex, SameDelay, SameSound]

theorem State.setPc_frameRegs (s : State) (a : Nat) : FrameRegs [] s (s.setPc a) := by
  simp [FrameRegs, SameRegsExcept, SameMemory, SameIndex, SameDelay, SameSound, SameRun, SameOutside]

theorem State.result_keepsUnlessWritten (s : State) (i : Instr) : KeepsUnlessWritten i s (s.result i) := by
  cases i with
  | ret =>
    rcases s.result_ret_cases with ⟨-, e⟩ | ⟨older, a, -, e⟩
    · exact e ▸ s.raise_keepsUnlessWritten _ _ _
    · obtain ⟨hmem, hfb, -, hrest⟩ := (State.setPc_frameRegs { s with stack := older } a.toNat).keepsUnlessWritten .ret
      exact e ▸ ⟨hmem, hfb, fun h => absurd rfl (h 0).1, hrest⟩
  | call nnn =>
    rcases s.result_call_cases nnn with ⟨-, e⟩ | ⟨-, e⟩
    · exact e ▸ s.raise_keepsUnlessWritten _ _ _
    · rw [e]
      simp [KeepsUnlessWritten, SameMemory, SameIndex, SameDelay, SameSound]
  | ldVxK x =>
    rcases s.result_ldVxK_cases x with ⟨k, rest, -, e⟩ | ⟨-, e⟩
    · exact e ▸ (State.writeReg_frameRegs _ x _).keepsUnlessWritten _
    · rw [e]
      simp [KeepsUnlessWritten, SameMemory, SameIndex, SameDelay, SameSound]
  | jp nnn | jpOffset nnn => exact (s.setPc_frameRegs _).keepsUnlessWritten _
  | seImm x nn | sneImm x nn | seReg x y | sneReg x y | skp x | sknp x =>
    exact (s.skipIf_frameRegs _).keepsUnlessWritten _
  | ldImm x nn | addImm x nn | ldReg x y | ldVxDt x => exact (s.writeReg_frameRegs x _).keepsUnlessWritten _
  | rnd x nn => exact (s.afterRand.writeReg_frameRegs x _).keepsUnlessWritten _
  | orReg x y | andReg x y | xorReg x y => exact (s.writeLogic_frameRegs x _).keepsUnlessWritten _
  | addReg x y | subReg x y | shr x y | subnReg x y | shl x y =>
    exact (s.writeWithFlag_frameRegs x _ _).keepsUnlessWritten _
  | drw x y n =>
    obtain ⟨hmem, -, hrest⟩ := (State.writeReg_frameRegs { s with fb := _ } vf _).keepsUnlessWritten (.drw x y n)
    exact ⟨hmem, fun h => absurd rfl (h x y n).2, hrest⟩
  | cls | ldI nnn | addI x | ldFont x | ldDtVx x | ldStVx x | ldBcd x | storeRegs x | loadRegs x =>
    simp [State.result, KeepsUnlessWritten, SameMemory, SameIndex, SameDelay, SameSound]

/-- Settles O57: a report writes none of it, and a result only what its instruction writes. -/
theorem stateHasItsWriters : Obligations.StateHasItsWriters := fun i s t h => by
  rcases exec_cases h with ⟨-, rfl⟩ | ⟨-, rfl⟩
  · exact s.raise_keepsUnlessWritten _ _ i
  · exact s.result_keepsUnlessWritten i

/-! ## Which parameters an instruction ignores -/

/-- Two builds agree on the four parameters that 00 R10 does not name. -/
def AgreeOnFour (p q : Params) : Prop :=
  p.opset = q.opset ∧ p.fontBase = q.fontBase ∧ p.resetPolicy = q.resetPolicy ∧ p.onCondition = q.onCondition

theorem State.memReadList_congr {s t : State} (h : ∀ a, t.memRead a = s.memRead a) (a n : Nat) :
    t.memReadList a n = s.memReadList a n := by
  induction n generalizing a with
  | zero => rfl
  | succ n ih => rw [State.memReadList, State.memReadList, h, ih]

theorem State.memWrittenRun_congr {s t : State} (h : ∀ a, t.memWritten a = s.memWritten a) (a n : Nat) :
    t.memWrittenRun a n = s.memWrittenRun a n := by
  induction n generalizing a with
  | zero => rfl
  | succ n ih => rw [State.memWrittenRun, State.memWrittenRun, h, ih]

theorem State.readable_withParams {s : State} {p : Params} (hp : AgreeOnFour p s.params) {i : Instr}
    (hi : i.inMin6 = true) : ({ s with params := p } : State).readable i = s.readable i := by
  obtain ⟨⟩ := p
  obtain ⟨rfl, rfl, rfl, rfl⟩ := hp
  cases i with
  | cls | jp nnn | ldImm x nn | addImm x nn | ldI nnn => rfl
  | drw x y n =>
    refine congrArg (and _) (State.memWrittenRun_congr (fun a => ?_) _ _)
    rfl
  | _ => exact absurd hi Bool.false_ne_true

theorem State.result_withParams {s : State} {p : Params} (hp : AgreeOnFour p s.params) {i : Instr}
    (hi : i.inMin6 = true) : ({ s with params := p } : State).result i = { s.result i with params := p } := by
  obtain ⟨⟩ := p
  obtain ⟨rfl, rfl, rfl, rfl⟩ := hp
  cases i with
  | cls | jp nnn | ldImm x nn | addImm x nn | ldI nnn => rfl
  | drw x y n =>
    refine congrArg (State.draw _ _ _) (State.memReadList_congr (fun a => ?_) _ _)
    rfl
  | _ => exact absurd hi Bool.false_ne_true

theorem State.raise_withParams {s : State} {p : Params} (hp : AgreeOnFour p s.params) (c : Condition) (w : Word) :
    ({ s with params := p } : State).raise c w = { s.raise c w with params := p } := by
  obtain ⟨⟩ := p
  obtain ⟨rfl, rfl, rfl, rfl⟩ := hp
  rfl

/-- Settles O58: what the check, the report and the result of the six operations depend on are the other four. -/
theorem sourceOperationsIgnoreSixParameters : Obligations.SourceOperationsIgnoreSixParameters :=
  fun i s t p hi hopset hfont hreset hcondition h => by
    have hp : AgreeOnFour p s.params := ⟨hopset, hfont, hreset, hcondition⟩
    rcases exec_cases h with ⟨hr, rfl⟩ | ⟨hr, rfl⟩
    · rw [exec_of_unreadable (State.readable_withParams hp hi ▸ hr), State.raise_withParams hp]
    · rw [exec_of_readable (State.readable_withParams hp hi ▸ hr), State.result_withParams hp hi]

end Sys2Proof.Machine
end

section
/-! PROOFS. The step: what a tick does by the run state and the fetch, and what the moves of the other agents do (30 R83
to R85, 60 R201 to R206, 70 R230 to R246). -/

namespace Sys2Proof.Machine

variable {s t : State}

/-! ## Everything a step can do -/

theorem step_of_move {m : HostMove} {rest : List HostMove} (h : s.params.wf = true) (hm : s.inputs.moves = m :: rest) :
    step s = agentMove m (s.withMoves rest) :=
  (step_of_legal h).trans (nextMove_of_move hm)

theorem wf_of_step_eq_next (h : step s = .next t) : s.params.wf = true := by
  unfold step at h
  split_ifs at h with hwf
  exact hwf

/-- A step that answers a state is a tick, queued or not, or the queued move of another agent. -/
theorem step_cases (h : step s = .next t) :
    (∃ rest, s.ticksThen rest ∧ instrTick (s.withMoves rest) = .next t) ∨
      ∃ m rest, m ≠ .instrTick ∧ s.inputs.moves = m :: rest ∧ agentMove m (s.withMoves rest) = .next t := by
  have hwf := wf_of_step_eq_next h
  cases hmoves : s.inputs.moves with
  | nil =>
    have htick : s.ticksThen [] := .inr ⟨hmoves, rfl⟩
    exact .inl ⟨[], htick, step_of_ticksThen hwf htick ▸ h⟩
  | cons m rest =>
    by_cases hm : m = .instrTick
    · have htick : s.ticksThen rest := .inl (hm ▸ hmoves)
      exact .inl ⟨rest, htick, step_of_ticksThen hwf htick ▸ h⟩
    · exact .inr ⟨m, rest, hm, rfl, step_of_move hwf hmoves ▸ h⟩

/-- Settles O16: a tick answers a state, and so does every move but the two of the loader. -/
theorem everyStepAnswersNext : Obligations.EveryStepAnswersNext := fun s hwf hloader => by
  cases hmoves : s.inputs.moves with
  | nil =>
    rw [step_of_legal hwf, nextMove_of_empty hmoves]
    exact instrTick_answers_next s
  | cons m rest =>
    rw [step_of_move hwf hmoves]
    cases m with
    | instrTick => exact instrTick_answers_next _
    | timerTick | setKeys keys | fbRead r c | rst => exact ⟨_, rfl⟩
    | loadByte a b | load image => simp [State.loaderNext, hmoves] at hloader

/-! ## A tick of a ready core -/

theorem instrTick_of_decode {i : Instr} (hready : s.cpu = .ready) (hfetch : s.fetchReadable = true)
    (hdecode : decode s.params.opset s.fetchWord = .ok i) : instrTick s = exec i s.closeLoad.afterFetch := by
  have hfetch' : s.closeLoad.fetchReadable = true := hfetch
  have hdecode' : decode s.closeLoad.params.opset s.closeLoad.fetchWord = .ok i := hdecode
  rw [instrTick_of_ready hready, fetchDecodeExecute, if_pos hfetch', hdecode']

theorem instrTick_of_undecoded (hready : s.cpu = .ready) (hfetch : s.fetchReadable = true)
    (hdecode : ∀ i, decode s.params.opset s.fetchWord ≠ .ok i) :
    instrTick s = .next (s.closeLoad.afterFetch.raise .unimplemented s.fetchWord) := by
  rw [instrTick_of_ready hready]
  rcases fetchDecodeExecute_cases s.closeLoad with ⟨hf, -⟩ | ⟨-, -, e⟩ | ⟨-, i, hd, -⟩
  · exact absurd (hfetch.symm.trans hf) (by decide)
  · exact e
  · exact absurd hd (hdecode i)

theorem instrTick_of_unwritten (hready : s.cpu = .ready) (hfetch : s.fetchReadable = false) :
    instrTick s = .next (s.closeLoad.afterFetch.raise .unwrittenRead s.pc) := by
  have hfetch' : ¬ s.closeLoad.fetchReadable = true := Bool.eq_false_iff.mp hfetch
  rw [instrTick_of_ready hready, fetchDecodeExecute, if_neg hfetch']
  rfl

/-- Two bytes decode as the word they make. -/
theorem decode_of_decodeBytes {o : OpSet} {hi lo : Byte} {i : Instr} (h : decodeBytes o [hi, lo] = .ok (i, [])) :
    decode o (wordOfBytes hi lo) = .ok i := by
  cases hd : decode o (wordOfBytes hi lo) with
  | ok j =>
    rw [decodeBytes_of_decode hd []] at h
    cases h
    rfl
  | error r =>
    simp only [decodeBytes, hd] at h
    cases h

/-- Settles O9: the fetch advances `PC` and leaves `Status` at `Ok`, the tick closes the window. -/
theorem stepRunsTheDecodedInstruction : Obligations.StepRunsTheDecodedInstruction := by
  intro s i hwf hready hhi hlo hbytes
  have hfetch : s.fetchReadable = true := Bool.and_eq_true_iff.mpr ⟨hhi, hlo⟩
  have hdecode : decode s.params.opset s.fetchWord = .ok i := decode_of_decodeBytes hbytes
  refine ⟨fun hmoves => ?_, fun rest hmoves => ?_⟩
  · rw [step_of_legal hwf, nextMove_of_empty hmoves, instrTick_of_decode hready hfetch hdecode]
    rfl
  · rw [step_of_move hwf hmoves]
    exact instrTick_of_decode (s := s.withMoves rest) hready hfetch hdecode

/-- A fetch that ends in a report, stated as its next state: `PC` is past the word, and the rest is as before. -/
theorem step_fetchReport_outcome {rest : List HostMove} {c : Condition} {w : Word}
    (h : step s = .next ((s.withMoves rest).closeLoad.afterFetch.raise c w)) :
    ∃ t, step s = .next t ∧ t.status = ⟨.reported c, w⟩ ∧ t.cpu = s.cpuAfterCondition ∧ t.loadOpen = false ∧
      t.pc.toNat = (s.pc.toNat + 2) % 4096 ∧ SameButReport (s.withMoves rest) t :=
  ⟨_, h, rfl, rfl, rfl, pcValue_toNat _, (s.withMoves rest).closeLoad.afterFetch_sameButReport⟩

/-- Settles O10: the report of an undecoded word comes after the fetch. -/
theorem unimplementedWordIsReported : Obligations.UnimplementedWordIsReported :=
  fun s rest ⟨hwf, htick, hready, hfetch⟩ hdecode =>
    step_fetchReport_outcome <|
      (step_of_ticksThen hwf htick).trans (instrTick_of_undecoded (s := s.withMoves rest) hready hfetch hdecode)

/-- Settles O11: the check of the two bytes comes before the decoding, and reports `PC` before the advance. -/
theorem unwrittenFetchIsReported : Obligations.UnwrittenFetchIsReported := fun s rest hwf htick hready hbytes =>
  have hfetch : s.fetchReadable = false := Bool.and_eq_false_iff.mpr hbytes
  step_fetchReport_outcome <|
    (step_of_ticksThen hwf htick).trans (instrTick_of_unwritten (s := s.withMoves rest) hready hfetch)

/-! ## A halted core -/

/-- Settles O14: the tick of a halted core closes the window and reports. -/
theorem haltedTickOnlyReports : Obligations.HaltedTickOnlyReports := fun s rest hwf htick hhalted =>
  (step_of_ticksThen hwf htick).trans (instrTick_of_halted (s := s.withMoves rest) hhalted)

@[simp] theorem State.withMoves_indexWritten (s : State) (rest : List HostMove) :
    (s.withMoves rest).indexWritten = s.indexWritten := rfl

/-- Settles O15: the tick only reports, and each other move but `rst` writes none of the named fields; the loader's
alone write memory. -/
theorem onlyResetLeavesHalted : Obligations.OnlyResetLeavesHalted := fun s t hhalted hnoReset h => by
  rcases step_cases h with ⟨rest, -, htick⟩ | ⟨m, rest, hm, hmoves, hmove⟩
  · cases (instrTick_of_halted (s := s.withMoves rest) hhalted).symm.trans htick
    exact ⟨hhalted, rfl, rfl, rfl, .of_same (fun _ => rfl) fun _ => rfl, ⟨rfl, rfl⟩, fun _ _ => ⟨rfl, rfl⟩⟩
  · cases m with
    | instrTick => exact absurd rfl hm
    | rst => exact absurd hmoves (hnoReset rest)
    | timerTick | setKeys keys | fbRead r c =>
      cases hmove
      exact ⟨hhalted, rfl, rfl, rfl, .of_same (fun _ => rfl) fun _ => rfl, ⟨rfl, rfl⟩, fun _ _ => ⟨rfl, rfl⟩⟩
    | loadByte a b =>
      have hloader : s.loaderNext = true := by simp [State.loaderNext, hmoves]
      rw [loadByte_eq_next hmove, hloader]
      exact ⟨hhalted, rfl, rfl, rfl, .of_same (fun _ => rfl) (State.memWrite_regWritten _ _ _),
        ⟨rfl, State.memWrite_indexWritten _ _ _⟩, nofun⟩
    | load image =>
      have hloader : s.loaderNext = true := by simp [State.loaderNext, hmoves]
      rw [loadImage_eq_next hmove, hloader]
      simp [hhalted, SameRegsExcept, SameIndex]

/-! ## The jump to itself -/

/-- The word of the end shape is that of the jump to `PC` (70 R246). -/
theorem jumpToSelf_eq_encode {pc : Word} (h : pc.toNat < 4096) : 0x1000#16 ||| pc = encode (.jp (fieldNNN pc)) := by
  have hitype : fieldItype pc = 0#4 := eq_ofNat_of_toNat (by rw [fieldItype_toNat]; omega)
  have hor : (0x1#4 ++ 0#12) ||| (0#4 ++ fieldNNN pc) = (0x1#4 ++ fieldNNN pc) := by
    rw [BitVec.or_append, BitVec.or_zero, BitVec.zero_or]
  rw [← hitype] at hor
  change (0x1#4 ++ 0#12) ||| pc = _
  conv_lhs => rw [← encodeNNN_fields pc]
  exact hor

theorem ofNat_fieldNNN {pc : Word} (h : pc.toNat < 4096) : BitVec.ofNat 16 (fieldNNN pc).toNat = pc := by
  rw [fieldNNN_toNat, Nat.mod_eq_of_lt h, BitVec.ofNat_toNat, BitVec.setWidth_eq]

/-- Settles O59: the fetched word is the jump to the address it was fetched from, which the jump gives back to `PC`. -/
theorem jumpToSelfGoesOn : Obligations.JumpToSelfGoesOn := fun s rest hinv htick hend => by
  obtain ⟨⟨hready, hfetch⟩, hword⟩ : (s.cpu = .ready ∧ s.fetchReadable = true) ∧ s.fetchWord = 0x1000#16 ||| s.pc := by
    simpa [State.endShape] using hend
  have hdecode : decode s.params.opset s.fetchWord = .ok (.jp (fieldNNN s.pc)) := by
    rw [hword, jumpToSelf_eq_encode hinv.pc_below]
    exact decode_encode (by cases s.params.opset <;> rfl)
  refine ⟨{ s.withMoves rest with status := ⟨.ok, s.status.word⟩, loadOpen := false }, ?_, rfl, hend⟩
  obtain ⟨-, hjump⟩ := jumpSetsPcOnly (s.withMoves rest).closeLoad.afterFetch (fieldNNN s.pc)
  rw [step_of_ticksThen hinv.params_legal htick,
    instrTick_of_decode (s := s.withMoves rest) hready hfetch hdecode, hjump, ofNat_fieldNNN hinv.pc_below]
  rfl

/-! ## The output ports -/

/-- The outcome that a code on the `status` port stands for (60 R200). -/
def StatusCode.ofPort : Nat → Option StatusCode
  | 0 => some .ok
  | 1 => some (.reported .unimplemented)
  | 2 => some (.reported .stackUnderflow)
  | 3 => some (.reported .stackOverflow)
  | 4 => some (.reported .unwrittenRead)
  | 5 => some .waiting
  | 6 => some .halted
  | _ => none

theorem StatusCode.ofPort_bits (c : StatusCode) : StatusCode.ofPort c.bits.toNat = some c := by
  rcases c with _ | ⟨⟨⟩⟩ | _ | _ <;> rfl

theorem State.statusPort_eq_iff (s : State) (c : StatusCode) :
    s.statusPort.toNat = c.bits.toNat ↔ s.status.code = c := by
  refine ⟨fun h => ?_, fun h => h ▸ rfl⟩
  have hport := congrArg StatusCode.ofPort h
  rw [State.statusPort, StatusCode.ofPort_bits, StatusCode.ofPort_bits] at hport
  exact Option.some.inj hport

theorem State.statusPort_ne_seven (s : State) : s.statusPort.toNat ≠ 7 := fun h => by
  have hport := s.status.code.ofPort_bits
  rw [show s.status.code.bits.toNat = 7 from h] at hport
  cases hport

/-- The codes 0, 5 and 6 are those of no condition. -/
theorem State.conditionReported_of_statusPort_mem (h : s.statusPort.toNat ∈ [0, 5, 6]) :
    s.conditionReported = false := by
  refine Bool.eq_false_iff.mpr fun hreported => ?_
  obtain ⟨c, hc⟩ := s.conditionReported_iff.mp hreported
  rw [(s.statusPort_eq_iff _).mpr hc] at h
  cases c <;> revert h <;> decide

theorem State.suspendedPort_iff (s : State) : s.suspendedPort = true ↔ ∃ x, s.cpu = .waiting x := by
  unfold State.suspendedPort
  cases s.cpu <;> simp

/-- `Waiting` is the run state exactly when it is the outcome reported (60 R200). -/
theorem State.waiting_iff_of_statusAgrees (h : s.statusAgrees = true) :
    (∃ x, s.cpu = .waiting x) ↔ s.status.code = .waiting := by
  refine ⟨fun ⟨x, hcpu⟩ => ?_, fun hcode => ?_⟩
  · rw [State.statusAgrees, hcpu] at h
    cases hcode : s.status.code with
    | waiting => rfl
    | ok | reported c | halted => rw [hcode] at h; cases h
  · rw [State.statusAgrees, hcode] at h
    cases hcpu : s.cpu with
    | waiting x => exact ⟨x, rfl⟩
    | ready | halted => rw [hcpu] at h; cases h

/-- A tick reports a condition, or keeps `cond_word`. -/
theorem instrTick_condWord (h : instrTick s = .next t) :
    t.conditionReported = true ∨ t.status.word = s.status.word := by
  cases hcpu : s.cpu with
  | halted =>
    cases (instrTick_of_halted hcpu).symm.trans h
    exact .inr rfl
  | waiting x =>
    cases (instrTick_of_waiting hcpu).symm.trans h
    rcases s.closeLoad.keyWaitPoll_cases x with ⟨k, rest, -, e⟩ | ⟨-, e⟩
    · exact .inr (e ▸ rfl)
    · exact .inr (e ▸ rfl)
  | ready =>
    rw [instrTick_of_ready hcpu] at h
    rcases fetchDecodeExecute_cases s.closeLoad with ⟨-, e⟩ | ⟨-, -, e⟩ | ⟨-, i, -, e⟩
    · cases e.symm.trans h
      exact .inl rfl
    · cases e.symm.trans h
      exact .inl rfl
    · rcases exec_status_cases (e.symm.trans h) with ⟨c, rfl⟩ | ⟨hword, -⟩
      · exact .inl rfl
      · exact .inr hword

/-- Settles O60: the port decodes to its outcome, `Status` agrees with `Cpu`, and a tick that changes `cond_word`
reports a condition. -/
theorem outputPortsShowTheOutcome : Obligations.OutputPortsShowTheOutcome := fun s => by
  refine ⟨s.statusPort_eq_iff .ok, s.statusPort_eq_iff (.reported .unimplemented),
    s.statusPort_eq_iff (.reported .stackUnderflow), s.statusPort_eq_iff (.reported .stackOverflow),
    s.statusPort_eq_iff (.reported .unwrittenRead), s.statusPort_eq_iff .waiting, s.statusPort_eq_iff .halted,
    s.statusPort_ne_seven, rfl, s.suspendedPort_iff, fun hinv => ?_, fun t rest htick h hport => ?_⟩
  · rw [s.suspendedPort_iff, State.waiting_iff_of_statusAgrees hinv.status_agrees]
    exact (s.statusPort_eq_iff .waiting).symm
  · rw [step_of_ticksThen (wf_of_step_eq_next h) htick] at h
    rcases instrTick_condWord h with hreported | hword
    · rw [State.conditionReported_of_statusPort_mem hport] at hreported
      cases hreported
    · exact hword

end Sys2Proof.Machine
end

section
/-! PROOFS. Memory, reset and the loader: addresses, the reset contents, the deposit of an image, and the blocks that
FX55 and FX65 move (20 R61 to R74, 10 R41, 70 R230 to R242, 42 R154 to R156). -/

namespace Sys2Proof.Machine

variable {s : State}

/-! ## Addresses -/

theorem State.memRead_congr (s : State) {a b : Nat} (h : decodeAddr a = decodeAddr b) : s.memRead a = s.memRead b :=
  congrArg (Memory.read s.params.fontBase s.mem) h

theorem State.memWritten_congr (s : State) {a b : Nat} (h : decodeAddr a = decodeAddr b) :
    s.memWritten a = s.memWritten b := by
  rw [State.memWritten, State.memWritten, h]

/-- Settles O23: two addresses that reduce to one are one to a read and to a write. -/
theorem addressesReduceModulo4096 : Obligations.AddressesReduceModulo4096 := fun s a k v hmem => by
  have hreduce : decodeAddr (a + 4096 * k) = decodeAddr a := decodeAddr_add_mul a k
  refine ⟨s.memRead_congr hreduce, ?_, fun b hb => ?_, State.memWrite_wf hmem a v⟩
  · rw [State.memRead_memWrite hmem, if_pos hreduce.symm]
  · have hother : decodeAddr (a + 4096 * k) ≠ decodeAddr b := fun e => hb (e.symm.trans hreduce)
    rw [State.memRead_memWrite hmem, if_neg hother]

/-! ## Reset -/

theorem State.applyReset_readReg (s : State) (r : RegIdx) : s.applyReset.readReg r = 0 := Vector.getElem_replicate _

theorem State.applyReset_memRead (s : State) (a : Nat) :
    s.applyReset.memRead a = resetByte s.params.fontBase (a % 4096) := rfl

/-- Under `unwritten_faults` a reset leaves only the font with a value (10 R42). -/
theorem State.applyReset_unwritten (h : s.params.resetPolicy = .unwrittenFaults) :
    (∀ r, s.applyReset.regWritten r = false) ∧ s.applyReset.indexWritten = false ∧ s.applyReset.delayWritten = false ∧
      s.applyReset.soundWritten = false ∧ ∀ a, s.applyReset.memWritten a = inFont s.params.fontBase (a % 4096) := by
  have htracks : s.applyReset.tracksWrites = true := beq_iff_eq.mpr h
  have hclear : s.applyReset.written = .clear := rfl
  have hparams : s.applyReset.params = s.params := rfl
  simp [State.regWritten, State.indexWritten, State.delayWritten, State.soundWritten, State.memWritten, htracks, hclear,
    hparams, WrittenBits.clear, decodeAddr]

/-- Settles O19: `rst` is `applyReset`, field by field. -/
theorem resetSetsEveryField : Obligations.ResetSetsEveryField := fun s rest hwf hmoves =>
  ⟨(s.withMoves rest).applyReset, step_of_move hwf hmoves, rfl, (s.withMoves rest).applyReset_readReg, rfl, rfl, rfl,
    rfl, Framebuffer.pixel_blank, rfl, rfl, rfl, rfl, rfl, rfl, rfl, rfl, (s.withMoves rest).applyReset_memRead,
    fun h => State.applyReset_unwritten (s := s.withMoves rest) h⟩

theorem resetByte_of_font (f : Addr) {k : Nat} (hk : k < 80) : resetByte f (f.toNat + k) = fontBytes.getD k 0 := by
  have hin : inFont f (f.toNat + k) = true := by simp [inFont, hk]
  rw [resetByte, if_pos hin, Nat.add_sub_cancel_left]

theorem resetByte_of_not_font {f : Addr} {a : Nat} (h : a < f.toNat ∨ f.toNat + 80 ≤ a) : resetByte f a = 0 := by
  have hout : ¬ inFont f a = true := by
    simp only [inFont, Bool.and_eq_true, decide_eq_true_eq]
    omega
  rw [resetByte, if_neg hout]

/-- A font inside the reserved region ends below 0x200 (00 R9). -/
theorem Params.font_below {p : Params} (h : p.wf = true) : p.fontBase.toNat + 80 ≤ 0x200 := by
  obtain ⟨hfits, -⟩ := Bool.and_eq_true_iff.mp h
  exact of_decide_eq_true hfits

theorem resetWith_memRead (p : Params) {a : Nat} (ha : a < 4096) :
    (State.resetWith p).memRead a = resetByte p.fontBase a :=
  congrArg (resetByte p.fontBase) (decodeAddr_of_lt ha)

/-- Five consecutive bytes of the font, as the machine reads them after reset. -/
theorem resetWith_memReadList_font {p : Params} (hp : p.wf = true) {d : Nat} (hd : d < 16) :
    (State.resetWith p).memReadList (p.fontBase.toNat + 5 * d) 5 =
      (List.range 5).map fun k => fontBytes.getD (5 * d + k) 0 := by
  have hbelow := Params.font_below hp
  refine List.ext_getElem (by rw [State.memReadList_length, List.length_map, List.length_range]) fun k hk _ => ?_
  have hk' : k < 5 := by simpa only [State.memReadList_length] using hk
  rw [State.memReadList_getElem, resetWith_memRead p (by omega), Nat.add_assoc, resetByte_of_font _ (by omega),
    List.getElem_map, List.getElem_range]

/-- Settles O20: the bytes of the font are the 16 glyphs in turn, and outside the font the reset contents are 0. -/
theorem resetMemoryHoldsTheFont : Obligations.ResetMemoryHoldsTheFont := fun p hp => by
  refine ⟨fun d hd => ?_, fun a ha hout => ?_⟩
  · rw [resetWith_memReadList_font hp hd]
    revert d
    decide
  · rw [resetWith_memRead p ha, resetByte_of_not_font hout]

/-! ## The loader -/

theorem loadImage_of_fits {image : List Byte} (hopen : s.loadOpen = true) (hfits : image.length ≤ 3584) :
    loadImage image s = .next (s.memWriteList 0x200 image) := by
  simp [loadImage, imageFits, hopen, hfits]

theorem loadImage_of_long {image : List Byte} (hopen : s.loadOpen = true) (hlong : 3584 < image.length) :
    loadImage image s = .refused .imageTooLong := by
  simp [loadImage, imageFits, hopen, hlong]

theorem loadImage_of_late (hlate : s.loadOpen = false) (image : List Byte) :
    loadImage image s = .refused .loadAfterStart := by
  simp [loadImage, hlate]

theorem loadByte_of_open {a : Addr} (hopen : s.loadOpen = true) (ha : 0x200 ≤ a.toNat) (b : Byte) :
    loadByte a b s = .next (s.memWrite a.toNat b) := by
  simp [loadByte, hopen, ha]

theorem loadByte_of_reserved {a : Addr} (hopen : s.loadOpen = true) (ha : a.toNat < 0x200) (b : Byte) :
    loadByte a b s = .refused .loadOutsideProgramArea := by
  simp [loadByte, hopen, ha]

theorem loadByte_of_late (hlate : s.loadOpen = false) (a : Addr) (b : Byte) :
    loadByte a b s = .refused .loadAfterStart := by
  simp [loadByte, hlate]

theorem State.memWritten_memWriteList_inside (s : State) (a : Nat) {l : List Byte} {k : Nat} (hk : k < l.length) :
    (s.memWriteList a l).memWritten (a + k) = true :=
  (s.memWritten_memWriteList a (a + k) l).mpr (.inl ⟨k, hk, rfl⟩)

/-- Settles O21: an accepted image is one run of stores, with the frame of that run. -/
theorem loaderDepositsTheImage : Obligations.LoaderDepositsTheImage := fun s image rest hwf hmem hmoves => by
  rw [step_of_move hwf hmoves]
  refine ⟨fun hopen hfits => ?_, fun hopen => loadImage_of_long (s := s.withMoves rest) hopen,
    fun hlate => loadImage_of_late (s := s.withMoves rest) hlate image⟩
  have hmem' : Memory.wf (s.withMoves rest).params.fontBase (s.withMoves rest).mem = true := hmem
  obtain ⟨hregs, houtside, hdelay, hsound, hfb, hstack, hpc, ⟨hcpu, hstatus, hinputs⟩, hother⟩ :=
    State.memWriteList_frameStore hmem' 0x200 image
  refine ⟨_, loadImage_of_fits (s := s.withMoves rest) hopen hfits, fun k hk => ⟨?_, ?_⟩, hregs, houtside,
    (s.withMoves rest).memWriteList_sameIndex _ _, hdelay, hsound, hfb, hstack, hpc, hcpu, hstatus, hother, hinputs⟩
  · exact State.memRead_memWriteList_inside hmem' (by omega) hk
  · exact (s.withMoves rest).memWritten_memWriteList_inside 0x200 hk

/-- Settles O22: an accepted byte is a run of one store, with the frame of that run. -/
theorem loaderPortWritesOneByte : Obligations.LoaderPortWritesOneByte := fun s a b rest hwf hmem hmoves => by
  rw [step_of_move hwf hmoves]
  refine ⟨fun hopen ha => ?_, fun hopen ha => loadByte_of_reserved (s := s.withMoves rest) hopen ha b,
    fun hlate => loadByte_of_late (s := s.withMoves rest) hlate a b⟩
  have hmem' : Memory.wf (s.withMoves rest).params.fontBase (s.withMoves rest).mem = true := hmem
  obtain ⟨hregs, houtside, hdelay, hsound, hfb, hstack, hpc, ⟨hcpu, hstatus, hinputs⟩, hother⟩ :=
    State.memWriteList_frameStore hmem' a.toNat [b]
  exact ⟨_, loadByte_of_open (s := s.withMoves rest) hopen ha b,
    State.memRead_memWriteList_inside (l := [b]) hmem' (by simp) Nat.zero_lt_one,
    (s.withMoves rest).memWritten_memWriteList_inside a.toNat (l := [b]) Nat.zero_lt_one, houtside, hregs,
    (s.withMoves rest).memWriteList_sameIndex a.toNat [b], hdelay, hsound, hfb, hstack, hpc, hcpu, hstatus, hother,
    hinputs⟩

/-! ## The blocks of FX55 and FX65 -/

theorem exec_storeRegs {x : RegIdx} (hregs : ∀ r ≤ x, s.regWritten r = true) (hi : s.indexWritten = true) :
    exec (.storeRegs x) s = .next ((s.memWriteList (s.dataAddr 0) (s.regsUpTo x)).stepIndex x) :=
  exec_of_readable (i := .storeRegs x) (Bool.and_eq_true_iff.mpr ⟨(s.regsWrittenUpTo_iff x).mpr hregs, hi⟩)

theorem exec_loadRegs {x : RegIdx} (hi : s.indexWritten = true)
    (hbytes : ∀ r ≤ x, s.memWritten (s.dataAddr r.val) = true) :
    exec (.loadRegs x) s = .next ((s.writeRegList 0 (s.memReadList (s.dataAddr 0) (x.val + 1))).stepIndex x) := by
  have hrun : s.memWrittenRun (s.dataAddr 0) (x.val + 1) = true := by
    refine (s.memWrittenRun_iff _ _).mpr fun k hk => ?_
    have hx : x.val < 16 := x.isLt
    exact hbytes ⟨k, by omega⟩ (Nat.le_of_lt_succ hk)
  exact exec_of_readable (i := .loadRegs x) (Bool.and_eq_true_iff.mpr ⟨hi, hrun⟩)

/-- `MEM_INCR_I` says whether `I` moves past the block (42 R154, R155). -/
theorem State.stepIndex_i_of_incr {x : RegIdx} (h : s.params.memIncrI = true) :
    (s.stepIndex x).i.toNat = (s.i.toNat + x.val + 1) % 65536 := by
  rw [State.stepIndex_i, if_pos h, BitVec.toNat_ofNat]

theorem State.stepIndex_i_of_keep {x : RegIdx} (h : s.params.memIncrI = false) : (s.stepIndex x).i = s.i := by
  rw [State.stepIndex_i, if_neg (Bool.eq_false_iff.mp h)]

/-- A step of `I` is within the frame of a run of stores. -/
theorem FrameStore.stepIndex {t : State} {a n : Nat} (h : FrameStore a n s t) (x : RegIdx) :
    FrameStore a n s (t.stepIndex x) := by
  simpa [FrameStore, SameRegsExcept, SameMemoryOutside, SameDelay, SameSound, SameRun, SameOutside] using h

/-- Byte `r` of the stored block is `V[r]`. -/
theorem State.regsUpTo_getElem_val {x r : RegIdx} (h : r.val < (s.regsUpTo x).length) :
    (s.regsUpTo x)[r.val] = s.readReg r := by
  have hr : Fin.ofNat 16 r.val = r := Fin.ext (Nat.mod_eq_of_lt r.isLt)
  rw [State.regsUpTo_getElem, hr]

theorem State.memRead_storeBlock (hmem : Memory.wf s.params.fontBase s.mem = true) {x r : RegIdx} (hr : r ≤ x) :
    (s.memWriteList (s.dataAddr 0) (s.regsUpTo x)).memRead (s.dataAddr r.val) = s.readReg r := by
  have hx : x.val < 16 := x.isLt
  have hlen : r.val < (s.regsUpTo x).length := by
    rw [State.regsUpTo_length]
    exact Nat.lt_succ_of_le hr
  rw [State.memRead_dataAddr_memWriteList hmem (by rw [State.regsUpTo_length]; omega) hlen, State.regsUpTo_getElem_val]

theorem State.memWritten_storeBlock (s : State) {x r : RegIdx} (hr : r ≤ x) :
    (s.memWriteList (s.dataAddr 0) (s.regsUpTo x)).memWritten (s.dataAddr r.val) = true := by
  refine s.memWritten_memWriteList_inside (s.dataAddr 0) ?_
  rw [State.regsUpTo_length]
  exact Nat.lt_succ_of_le hr

/-- Settles O43: the block is one run of stores, and the step of `I` after it touches no byte. -/
theorem storeRegsWritesTheBlock : Obligations.StoreRegsWritesTheBlock := fun s x hmem hregs hi => by
  have hframe := State.memWriteList_frameStore hmem (s.dataAddr 0) (s.regsUpTo x)
  rw [State.regsUpTo_length] at hframe
  refine ⟨hasWord_wordNumber (Laws.WordNumber.storeRegs x), _, exec_storeRegs hregs hi, hframe.stepIndex x,
    fun r hr => ⟨?_, ?_⟩, fun hincr => ?_, fun hkeep => ?_⟩
  · rw [State.stepIndex_memRead, State.memRead_storeBlock hmem hr]
  · rw [State.stepIndex_memWritten, State.memWritten_storeBlock s hr]
  · rw [State.stepIndex_i_of_incr (by simpa using hincr), State.memWriteList_i]
  · rw [State.stepIndex_i_of_keep (by simpa using hkeep), State.memWriteList_i]

theorem State.writeRegList_block {x r : RegIdx} (hr : r ≤ x) {l : List Byte} (hl : l.length = x.val + 1) :
    (s.writeRegList 0 l).readReg r = l[r.val]'(hl ▸ Nat.lt_succ_of_le hr) ∧
      (s.writeRegList 0 l).regWritten r = true := by
  have hx : x.val < 16 := x.isLt
  have hle : r.val ≤ x.val := hr
  have hin : 0 ≤ r.val ∧ r.val < 0 + l.length := by omega
  rw [s.readReg_writeRegList 0 l (by omega), s.regWritten_writeRegList 0 l (by omega), dif_pos hin,
    decide_eq_true hin, Bool.true_or]
  exact ⟨rfl, rfl⟩

/-- Settles O44: the block is read byte by byte into consecutive registers, and the step of `I` touches none. -/
theorem loadRegsReadsTheBlock : Obligations.LoadRegsReadsTheBlock := fun s x hi hbytes => by
  have hlen := s.memReadList_length (s.dataAddr 0) (x.val + 1)
  refine ⟨hasWord_wordNumber (Laws.WordNumber.loadRegs x), _, exec_loadRegs hi hbytes, fun r hr => ?_, fun r hr => ?_,
    fun a => by simp, fun hincr => ?_, fun hkeep => ?_, by simp [SameDelay, SameSound, SameRun, SameOutside]⟩
  · obtain ⟨hread, hwritten⟩ := State.writeRegList_block (s := s) hr hlen
    rw [State.stepIndex_readReg, State.stepIndex_regWritten, hread, State.memReadList_getElem]
    exact ⟨rfl, hwritten⟩
  · rw [State.stepIndex_readReg, State.stepIndex_regWritten]
    exact s.writeRegList_sameAbove x hlen hr
  · rw [State.stepIndex_i_of_incr (by simpa using hincr), State.writeRegList_i]
  · rw [State.stepIndex_i_of_keep (by simpa using hkeep), State.writeRegList_i]

/-! ## Stores over the next instruction -/

section

/-! A run of stores from `I` on, seen by the fetch of a state that keeps its memory and the old `PC`. -/

variable {t : State} {l : List Byte} {j : Nat} (hmem : Memory.wf s.params.fontBase s.mem = true)
  (hpc : t.pc = s.pc) (hstored : SameMemory (s.memWriteList (s.dataAddr 0) l) t) (hj : j < 2)

include hmem hpc hstored hj

theorem State.fetchedByte_of_covered (hl : l.length ≤ 4096) {k : Nat} (hk : k < l.length)
    (hcovers : decodeAddr (s.pc.toNat + j) = decodeAddr (s.dataAddr k)) :
    t.fetchedByte j = l[k] ∧ t.memWritten (s.pc.toNat + j) = true := by
  obtain ⟨hread, hwritten⟩ := hstored (s.pc.toNat + j)
  rw [t.fetchedByte_eq hj, hpc, hread, hwritten, State.memRead_congr _ hcovers, State.memWritten_congr _ hcovers,
    State.memRead_dataAddr_memWriteList hmem hl hk]
  exact ⟨rfl, s.memWritten_memWriteList_inside (s.dataAddr 0) hk⟩

theorem State.fetchedByte_of_uncovered
    (hmisses : ∀ k < l.length, decodeAddr (s.pc.toNat + j) ≠ decodeAddr (s.dataAddr k)) :
    t.fetchedByte j = s.fetchedByte j ∧ t.memWritten (s.pc.toNat + j) = s.memWritten (s.pc.toNat + j) := by
  obtain ⟨hread, hwritten⟩ := hstored (s.pc.toNat + j)
  obtain ⟨hkeptRead, hkeptWritten⟩ :=
    State.memWriteList_sameMemoryOutside hmem (s.dataAddr 0) l (s.pc.toNat + j) hmisses
  rw [t.fetchedByte_eq hj, s.fetchedByte_eq hj, hpc, hread, hwritten, hkeptRead, hkeptWritten]
  exact ⟨rfl, rfl⟩

end

theorem bcdDigits_getElem_toNat (v : Byte) {k : Nat} (hk : k < 3) :
    ((bcdDigits v)[k]'hk).toNat = v.toNat / 10 ^ (2 - k) % 10 := by
  have hv : v.toNat < 256 := v.isLt
  interval_cases k
  · exact (toNat_byte_ofNat (by omega)).trans (by omega)
  · exact toNat_byte_ofNat (by omega)
  · exact (toNat_byte_ofNat (by omega)).trans (by omega)

/-- Settles O24: both instructions are a run of stores that leaves `PC` alone. -/
theorem storedBytesAreFetchedNext : Obligations.StoredBytesAreFetchedNext := fun s x hmem hi => by
  have hx : x.val < 16 := x.isLt
  refine ⟨fun hregs => ⟨_, exec_storeRegs hregs hi, by simp, fun j hj => ?_⟩,
    fun hreg => ⟨_, exec_ldBcd hreg hi, s.memWriteList_pc _ _, fun j hj => ?_⟩⟩
  · have hpc : ((s.memWriteList (s.dataAddr 0) (s.regsUpTo x)).stepIndex x).pc = s.pc := by simp
    have hstored : SameMemory (s.memWriteList (s.dataAddr 0) (s.regsUpTo x))
        ((s.memWriteList (s.dataAddr 0) (s.regsUpTo x)).stepIndex x) := fun a => by simp
    have hlen := s.regsUpTo_length x
    refine ⟨fun r hr hcovers => ?_, fun hmisses => ?_⟩
    · have hr' : r.val < (s.regsUpTo x).length := hlen ▸ Nat.lt_succ_of_le hr
      rw [← State.regsUpTo_getElem_val hr']
      exact State.fetchedByte_of_covered hmem hpc hstored hj (by omega) hr' hcovers
    · exact State.fetchedByte_of_uncovered hmem hpc hstored hj fun k hk =>
        hmisses ⟨k, by omega⟩ (Nat.le_of_lt_succ (hlen ▸ hk))
  · have hstored : SameMemory (s.memWriteList (s.dataAddr 0) (bcdDigits (s.readReg x))) _ := fun a => ⟨rfl, rfl⟩
    refine ⟨fun k hk hcovers => ?_, fun hmisses => ?_⟩
    · rw [← bcdDigits_getElem_toNat _ hk]
      obtain ⟨hbyte, hwritten⟩ :=
        State.fetchedByte_of_covered hmem (s.memWriteList_pc _ _) hstored hj (by simp [bcdDigits]) hk hcovers
      exact ⟨congrArg BitVec.toNat hbyte, hwritten⟩
    · exact State.fetchedByte_of_uncovered hmem (s.memWriteList_pc _ _) hstored hj hmisses

end Sys2Proof.Machine
end

section
/-! PROOFS. Timers, keys and the adapters: the countdown and its beeps, the wait of FX0A, and the ports (44 R191 to
R197, 43 R174, 70 R240 to R243). -/

namespace Sys2Proof.Machine

variable {s : State}

/-! ## The timers -/

/-- The clamp at 0 is that of subtraction on numbers (44 R195). -/
theorem countDown_toNat (b : Byte) : (countDown b).toNat = b.toNat - 1 := by
  have hlt : b.toNat < 256 := b.isLt
  unfold countDown
  split_ifs with h
  · rw [h]
    rfl
  · have hpos : b.toNat ≠ 0 := fun h0 => h (BitVec.eq_of_toNat_eq h0)
    rw [toNat_byte_sub, show (1 : Byte).toNat = 1 from rfl]
    omega

theorem State.timerTick_dt_toNat (h : s.delayWritten = true) : s.timerTick.dt.toNat = s.dt.toNat - 1 := by
  rw [State.timerTick, if_pos h, countDown_toNat]

theorem State.timerTick_st_toNat (h : s.soundWritten = true) : s.timerTick.st.toNat = s.st.toNat - 1 := by
  rw [State.timerTick, if_pos h, countDown_toNat]

theorem State.timerTick_beep_iff (s : State) : s.timerTick.beep = true ↔ s.soundWritten = true ∧ 0 < s.st.toNat := by
  have hpos : s.st ≠ 0 ↔ 0 < s.st.toNat := by
    rw [Nat.pos_iff_ne_zero, not_iff_not, ← BitVec.toNat_inj]
    rfl
  rw [State.timerTick_beep, Bool.and_eq_true, Bool.not_eq_true', beq_eq_false_iff_ne, hpos]

/-- Settles O49: the move is `timerTick`, which writes the two timers and `beep`. -/
theorem timerTickCountsDown : Obligations.TimerTickCountsDown := fun s rest hwf hmoves =>
  ⟨(s.withMoves rest).timerTick, step_of_move hwf hmoves, rfl, State.timerTick_dt_toNat (s := s.withMoves rest), rfl,
    State.timerTick_st_toNat (s := s.withMoves rest), rfl, (s.withMoves rest).timerTick_beep_iff⟩

theorem timerTicks_soundWritten (k : Nat) (s : State) : (timerTicks k s).soundWritten = s.soundWritten := by
  induction k generalizing s with
  | zero => rfl
  | succ k ih => exact (ih s.timerTick).trans s.timerTick_soundWritten

theorem timerTicks_delayWritten (k : Nat) (s : State) : (timerTicks k s).delayWritten = s.delayWritten := by
  induction k generalizing s with
  | zero => rfl
  | succ k ih => exact (ih s.timerTick).trans s.timerTick_delayWritten

theorem timerTicks_dt_toNat (h : s.delayWritten = true) (k : Nat) : (timerTicks k s).dt.toNat = s.dt.toNat - k := by
  induction k generalizing s with
  | zero => rfl
  | succ k ih =>
    rw [timerTicks, ih (s := s.timerTick) h, State.timerTick_dt_toNat h]
    omega

theorem timerTicks_st_toNat (h : s.soundWritten = true) (k : Nat) : (timerTicks k s).st.toNat = s.st.toNat - k := by
  induction k generalizing s with
  | zero => rfl
  | succ k ih =>
    rw [timerTicks, ih (s := s.timerTick) h, State.timerTick_st_toNat h]
    omega

theorem beepsIn_of_written (h : s.soundWritten = true) (k : Nat) : beepsIn k s = min k s.st.toNat := by
  induction k generalizing s with
  | zero => rw [beepsIn, Nat.zero_min]
  | succ k ih =>
    rw [beepsIn, ih (s := s.timerTick) h, State.timerTick_st_toNat h]
    have hbeep := s.timerTick_beep_iff
    split_ifs with hb
    · obtain ⟨-, hpos⟩ := hbeep.mp hb
      omega
    · have hzero : ¬ 0 < s.st.toNat := fun hpos => hb (hbeep.mpr ⟨h, hpos⟩)
      omega

theorem beepsIn_of_unwritten (h : s.soundWritten = false) (k : Nat) : beepsIn k s = 0 := by
  induction k generalizing s with
  | zero => rfl
  | succ k ih =>
    have hsilent : s.timerTick.beep = false := by rw [State.timerTick_beep, h, Bool.false_and]
    rw [beepsIn, ih (s := s.timerTick) h, hsilent]
    rfl

/-- Settles O50, by induction on the number of ticks. -/
theorem ticksBeepUntilSoundIsZero : Obligations.TicksBeepUntilSoundIsZero := fun s k =>
  ⟨fun h => ⟨beepsIn_of_written h k, timerTicks_st_toNat h k⟩, fun h => beepsIn_of_unwritten h k,
    fun h => timerTicks_dt_toNat h k, timerTicks_soundWritten k s, timerTicks_delayWritten k s⟩

/-- Settles O51: FX15 gives `DT` the value and marks it written, the ticks count it down, FX07 reads it. -/
theorem delayReadsBackAfterTicks : Obligations.DelayReadsBackAfterTicks := fun s t x y k hx h => by
  obtain rfl : s.writeDelay (s.readReg x) = t := by
    rw [exec_ldDtVx hx] at h
    cases h
    rfl
  have hwritten : (s.writeDelay (s.readReg x)).delayWritten = true := s.writeDelay_delayWritten _
  refine ⟨_, exec_ldVxDt ((timerTicks_delayWritten k _).trans hwritten) y, ?_⟩
  rw [State.readReg_writeReg_self, timerTicks_dt_toNat hwritten, State.writeDelay_dt]

/-! ## The keys that end a wait -/

/-- The keys of a word of key bits, in rising order. -/
def keysOf (w : Word) : List RegIdx := (List.finRange 16).filter fun k => w.getLsbD k.val

theorem mem_keysOf {w : Word} {k : RegIdx} : k ∈ keysOf w ↔ w.getLsbD k.val = true := by
  simp [keysOf]

theorem keysOf_eq_nil_iff {w : Word} : keysOf w = [] ↔ w = 0 := by
  refine ⟨fun h => BitVec.eq_of_getLsbD_eq fun k hk => ?_, fun h => ?_⟩
  · have hnone : (⟨k, hk⟩ : RegIdx) ∉ keysOf w := by simp [h]
    simpa [mem_keysOf] using hnone
  · simp [keysOf, h]

theorem State.keysAtStart_of_level (h : s.params.keyWait = .level) : s.keysAtStart = keysOf s.keys := by
  rw [State.keysAtStart, h]
  rfl

theorem State.keysAtStart_of_edge (h : s.params.keyWait = .edge) : s.keysAtStart = [] := by
  rw [State.keysAtStart, h]

/-- The keys already seen at the last poll, which end no wait: none under `level` (44 R192). -/
def State.Sees (s : State) (seen : Word) : Prop :=
  s.params.keyWait = .level ∧ seen = 0 ∨ s.params.keyWait = .edge ∧ seen = s.keyPrev

theorem and_not_zero (w : Word) : w &&& ~~~(0 : Word) = w := BitVec.and_allOnes

theorem State.keysAtPoll_eq {seen : Word} (h : s.Sees seen) : s.keysAtPoll = keysOf (s.keys &&& ~~~seen) := by
  rcases h with ⟨hlevel, rfl⟩ | ⟨hedge, rfl⟩
  · rw [State.keysAtPoll, hlevel, and_not_zero]
    rfl
  · rw [State.keysAtPoll, hedge, keysOf]
    refine List.filter_congr fun k _ => ?_
    simp [State.keyPressed]

/-! ## The wait ends, or goes on -/

/-- A key wait that ends stores its key, and its frame is that of a register write of a ready core. -/
theorem State.takeKey_outcome (s : State) (x k : RegIdx) (rest : List RegIdx) :
    ((s.takeKey x k rest).readReg x).toNat = (chooseKey k rest s.keyDraw).val ∧
      (s.takeKey x k rest).regWritten x = true ∧
      FrameRegs [x] ({ s with cpu := .ready }.reportOk.afterKeyDraw) (s.takeKey x k rest) := by
  have hlt := (chooseKey k rest s.keyDraw).isLt
  refine ⟨?_, State.regWritten_writeReg_self _ x _, State.writeReg_frameRegs _ x _⟩
  rw [State.takeKey, State.readReg_writeReg_self]
  exact toNat_byte_ofNat (by omega)

/-- A key wait that goes on remembers the keys under `edge` (44 R191, R192). -/
theorem State.keepWaiting_eq (s : State) (x : RegIdx) :
    s.keepWaiting x = { s with
      cpu := .waiting x
      status := ⟨.waiting, s.status.word⟩
      keyPrev := if s.params.keyWait = .edge then s.keys else s.keyPrev } := by
  unfold State.keepWaiting State.reportWaiting
  cases s.params.keyWait <;> rfl

theorem exec_ldVxK_of_key {k : RegIdx} {rest : List RegIdx} (h : s.keysAtStart = k :: rest) (x : RegIdx) :
    exec (.ldVxK x) s = .next (s.takeKey x k rest) := by
  rw [exec, execLdVxK, h]

theorem exec_ldVxK_of_none (h : s.keysAtStart = []) (x : RegIdx) : exec (.ldVxK x) s = .next (s.keepWaiting x) := by
  rw [exec, execLdVxK, h]

theorem State.keyWaitPoll_of_key {k : RegIdx} {rest : List RegIdx} (h : s.keysAtPoll = k :: rest) (x : RegIdx) :
    s.keyWaitPoll x = s.takeKey x k rest := by
  rw [State.keyWaitPoll, h]

theorem State.keyWaitPoll_of_none (h : s.keysAtPoll = []) (x : RegIdx) : s.keyWaitPoll x = s.keepWaiting x := by
  rw [State.keyWaitPoll, h]

/-- Settles O52: a pressed key is chosen at once; otherwise the core is suspended. -/
theorem keyWaitCompletesOrSuspends : Obligations.KeyWaitCompletesOrSuspends := fun s x hready => by
  refine ⟨hasWord_wordNumber (Laws.WordNumber.ldVxK x), fun hlevel hkeys => ?_, fun hlevel hnone => ?_, fun hedge => ?_⟩
  · have hstart := State.keysAtStart_of_level hlevel
    obtain ⟨k, rest, hlist⟩ := List.exists_cons_of_ne_nil (mt keysOf_eq_nil_iff.mp hkeys)
    obtain ⟨hread, hwritten, hframe⟩ := s.takeKey_outcome x k rest
    have hpressed : s.keys.getLsbD (chooseKey k rest s.keyDraw).val = true :=
      mem_keysOf.mp (hlist ▸ chooseKey_mem k rest s.keyDraw)
    have hsame : ({ s with cpu := .ready } : State) = s := by rw [← hready]
    rw [hsame] at hframe
    exact ⟨_, _, exec_ldVxK_of_key (hstart.trans hlist) x, hpressed, hread, hwritten, rfl, rfl, rfl, rfl, hframe⟩
  · have hstart := (State.keysAtStart_of_level hlevel).trans (keysOf_eq_nil_iff.mpr hnone)
    rw [exec_ldVxK_of_none hstart, State.keepWaiting_eq, if_neg (by simp [hlevel])]
  · rw [exec_ldVxK_of_none (State.keysAtStart_of_edge hedge), State.keepWaiting_eq, if_pos hedge]

/-- Settles O53: the tick of a waiting core is a poll of the keys not yet seen. -/
theorem keyPollTakesAnEligibleKey : Obligations.KeyPollTakesAnEligibleKey :=
  fun s x seen rest hseen hwf htick hwaiting => by
    have hpoll : (s.withMoves rest).closeLoad.keysAtPoll = keysOf (s.keys &&& ~~~seen) := State.keysAtPoll_eq hseen
    rw [step_of_ticksThen hwf htick, instrTick_of_waiting (s := s.withMoves rest) hwaiting]
    refine ⟨fun hkeys => ?_, fun hnone => ?_⟩
    · obtain ⟨k, others, hlist⟩ := List.exists_cons_of_ne_nil (mt keysOf_eq_nil_iff.mp hkeys)
      obtain ⟨hread, hwritten, hframe⟩ := (s.withMoves rest).closeLoad.takeKey_outcome x k others
      have heligible := mem_keysOf.mp (hlist ▸ chooseKey_mem k others (s.withMoves rest).closeLoad.keyDraw)
      rw [State.keyWaitPoll_of_key (hpoll.trans hlist)]
      exact ⟨_, _, rfl, heligible, hread, hwritten, rfl, rfl, rfl, rfl, rfl, hframe⟩
    · rw [State.keyWaitPoll_of_none (hpoll.trans (keysOf_eq_nil_iff.mpr hnone)), State.keepWaiting_eq, ← hwaiting]
      rfl

/-- Every key of the set is chosen by some draw (44 R191). -/
theorem exists_chooseKey_eq {k k₀ : RegIdx} {rest : List RegIdx} (h : k ∈ k₀ :: rest) :
    ∃ draw, chooseKey k₀ rest draw = k := by
  obtain ⟨d, hd, e⟩ := List.getElem_of_mem h
  refine ⟨d, ?_⟩
  unfold chooseKey
  split
  · exact (List.mem_singleton.mp h).symm
  · next r rs =>
    have hd' : d < rs.length + 2 := hd
    rw [Nat.mod_eq_of_lt hd', List.getD_eq_getElem _ _ hd, e]

/-- The state with `draw` as the only queued draw of `choose_key` (log 4). -/
def State.queueKeyDraw (s : State) (draw : Nat) : State := { s with inputs := { s.inputs with keyPicks := [draw] } }

/-- Some queued draw makes the end of a key wait store the key. -/
theorem State.exists_draw_takeKey (s : State) (x : RegIdx) {k k₀ : RegIdx} {rest : List RegIdx} (h : k ∈ k₀ :: rest) :
    ∃ draw, (((s.queueKeyDraw draw).takeKey x k₀ rest).readReg x).toNat = k.val := by
  obtain ⟨draw, hdraw⟩ := exists_chooseKey_eq h
  obtain ⟨hread, -, -⟩ := (s.queueKeyDraw draw).takeKey_outcome x k₀ rest
  exact ⟨draw, hread.trans (congrArg Fin.val hdraw)⟩

theorem State.mem_keysAtPoll {k : RegIdx} (hk : s.keys.getLsbD k.val = true)
    (heligible : s.params.keyWait = .level ∨ s.keyPrev.getLsbD k.val = false) : k ∈ s.keysAtPoll := by
  cases hwait : s.params.keyWait with
  | level =>
    rw [State.keysAtPoll_eq (.inl ⟨hwait, rfl⟩), and_not_zero]
    exact mem_keysOf.mpr hk
  | edge =>
    rw [State.keysAtPoll_eq (.inr ⟨hwait, rfl⟩), mem_keysOf]
    have hnew : s.keyPrev.getLsbD k.val = false := heligible.resolve_left (by simp [hwait])
    rw [BitVec.getLsbD_and, BitVec.getLsbD_not, hk, hnew, decide_eq_true k.isLt]
    rfl

/-- Settles O54: the set chosen from does not depend on the queue of draws, and some draw chooses the key. -/
theorem everyEligibleKeyCanBeChosen : Obligations.EveryEligibleKeyCanBeChosen := fun s x k hk => by
  refine ⟨fun hlevel => ?_, fun heligible => ?_⟩
  · have hmem : k ∈ s.keysAtStart := State.keysAtStart_of_level hlevel ▸ mem_keysOf.mpr hk
    obtain ⟨k₀, rest, hlist⟩ := List.exists_cons_of_ne_nil (List.ne_nil_of_mem hmem)
    obtain ⟨draw, hdraw⟩ := s.exists_draw_takeKey x (hlist ▸ hmem)
    exact ⟨draw, _, exec_ldVxK_of_key (s := s.queueKeyDraw draw) hlist x, hdraw⟩
  · have hmem : k ∈ s.keysAtPoll := State.mem_keysAtPoll hk heligible
    obtain ⟨k₀, rest, hlist⟩ := List.exists_cons_of_ne_nil (List.ne_nil_of_mem hmem)
    obtain ⟨draw, hdraw⟩ := s.exists_draw_takeKey x (hlist ▸ hmem)
    have hpoll := State.keyWaitPoll_of_key (s := s.queueKeyDraw draw) hlist x
    exact ⟨draw, (congrArg (fun t => (t.readReg x).toNat) hpoll).trans hdraw⟩

/-! ## The adapters -/

/-- Settles O55: each move is one update of its port's field. -/
theorem adaptersTouchOnlyTheirPorts : Obligations.AdaptersTouchOnlyTheirPorts := fun _ _ hwf =>
  ⟨fun _ => step_of_move hwf, fun _ _ => step_of_move hwf⟩

end Sys2Proof.Machine
end

section
/-! PROOFS. Single instructions: calls and returns, the skips on keys, the jump with an offset, the logic operations and
the shifts, the random byte, the index register and the sprite (40 R101 to R109, 41 R123 to R135, 42 R151, R152, 43
R173, 44 R186, R187). -/

namespace Sys2Proof.Machine

variable {s : State}

/-! ## Calls and returns -/

/-- A 12-bit address is already reduced (10 R27). -/
theorem pcValue_addr (nnn : Addr) : pcValue nnn.toNat = BitVec.ofNat 16 nnn.toNat := by
  rw [pcValue, Nat.mod_eq_of_lt nnn.isLt]

theorem exec_call_of_room (hroom : s.stackFull = false) (nnn : Addr) :
    exec (.call nnn) s = .next { s with stack := s.stack ++ [s.pc], pc := BitVec.ofNat 16 nnn.toNat } := by
  rcases s.result_call_cases nnn with ⟨hfull, -⟩ | ⟨-, e⟩
  · exact absurd (hroom.symm.trans hfull) (by decide)
  · rw [exec_of_readable rfl, e, ← pcValue_addr]
    rfl

theorem exec_call_of_full (hfull : s.stackFull = true) (nnn : Addr) :
    exec (.call nnn) s =
      .next { s with status := ⟨.reported .stackOverflow, encode (.call nnn)⟩, cpu := s.cpuAfterCondition } := by
  rcases s.result_call_cases nnn with ⟨-, e⟩ | ⟨hroom, -⟩
  · rw [exec_of_readable rfl, e, State.raise_eq]
  · exact absurd (hroom.symm.trans hfull) (by decide)

theorem exec_ret_of_push {older : List Word} {a : Word} (hstack : s.stack = older ++ [a]) :
    exec .ret s = .next { s with stack := older, pc := pcValue a.toNat } := by
  rcases s.result_ret_cases with ⟨hempty, -⟩ | ⟨older', a', hstack', e⟩
  · simp [hstack] at hempty
  · obtain ⟨rfl, htop⟩ := List.append_inj' (hstack'.symm.trans hstack) rfl
    obtain rfl := List.singleton_injective htop
    rw [exec_of_readable rfl, e]
    rfl

theorem exec_ret_of_empty (hempty : s.stack = []) :
    exec .ret s =
      .next { s with status := ⟨.reported .stackUnderflow, encode .ret⟩, cpu := s.cpuAfterCondition } := by
  rcases s.result_ret_cases with ⟨-, e⟩ | ⟨older, a, hstack, -⟩
  · rw [exec_of_readable rfl, e, State.raise_eq]
  · simp [hempty] at hstack

/-- Settles O26: the stack has room, or is full. -/
theorem callPushesOrOverflows : Obligations.CallPushesOrOverflows := fun s nnn => by
  refine ⟨hasWord_wordNumber (Laws.WordNumber.call nnn), fun hroom => exec_call_of_room ?_ nnn,
    fun hcap => exec_call_of_full ?_ nnn⟩
  · unfold State.stackFull
    split
    · rfl
    · next cap hcap => exact decide_eq_false (Nat.not_le.mpr (hroom cap hcap))
  · simp [State.stackFull, hcap]

/-- Settles O27: the stack has a last entry, or is empty. -/
theorem returnPopsOrUnderflows : Obligations.ReturnPopsOrUnderflows :=
  ⟨hasWord_wordNumber Laws.WordNumber.ret, fun _ _ _ hstack => exec_ret_of_push hstack,
    fun _ hempty => exec_ret_of_empty hempty⟩

theorem pcValue_of_lt {pc : Word} (h : pc.toNat < 4096) : pcValue pc.toNat = pc := by
  rw [pcValue, Nat.mod_eq_of_lt h, BitVec.ofNat_toNat, BitVec.setWidth_eq]

/-- Settles O28: the return pops what the call pushed, an address below 4096. -/
theorem returnUndoesCall : Obligations.ReturnUndoesCall := fun s t nnn p hpc hroom hcall => by
  rw [exec_call_of_room hroom] at hcall
  cases hcall
  rw [exec_ret_of_push rfl, pcValue_of_lt hpc]

/-! ## The skips on keys and the jump with an offset -/

theorem exec_skp {x : RegIdx} (hx : s.regWritten x = true) :
    exec (.skp x) s = .next (s.skipIf (s.keys.getLsbD ((s.readReg x).toNat % 16))) :=
  exec_of_readable (i := .skp x) hx

theorem exec_sknp {x : RegIdx} (hx : s.regWritten x = true) :
    exec (.sknp x) s = .next (s.skipIf (!s.keys.getLsbD ((s.readReg x).toNat % 16))) :=
  exec_of_readable (i := .sknp x) hx

/-- Settles O31: the key of the low nibble is bit `V[x] % 16` of the keys. -/
theorem skipsOnKeys : Obligations.SkipsOnKeys := fun _ x hx =>
  ⟨⟨hasWord_wordNumber (Laws.WordNumber.skp x), exec_skipIf_outcome (exec_skp hx) id id⟩,
    hasWord_wordNumber (Laws.WordNumber.sknp x),
    exec_skipIf_outcome (exec_sknp hx) (by simp) (by simp)⟩

theorem State.jumpReg_eq {nnn : Addr} {r : RegIdx}
    (h : s.params.jumpOffsetReg = .v0 ∧ r = 0 ∨ s.params.jumpOffsetReg = .vx ∧ r.val = nnn.toNat / 256) :
    s.jumpReg nnn = r := by
  rcases h with ⟨hv0, rfl⟩ | ⟨hvx, hr⟩
  · rw [State.jumpReg, hv0]
  · rw [State.jumpReg, hvx]
    exact Fin.ext ((addr_highNibble_val nnn).trans hr.symm)

/-- Settles O32: the register added is that of `JUMP_OFFSET_REG`. -/
theorem jumpAddsTheOffsetRegister : Obligations.JumpAddsTheOffsetRegister := fun s nnn r hr hwritten => by
  obtain rfl := State.jumpReg_eq hr
  exact ⟨hasWord_wordNumber (Laws.WordNumber.jpOffset nnn), _, exec_of_readable (i := .jpOffset nnn) hwritten,
    s.setPc_frameRegs _, pcValue_toNat _⟩

/-! ## Logic -/

/-- A logic operation, stated as its next state: `VF` ends 0 under `LOGIC_VF_RESET`, and is else not written as
a flag. -/
theorem exec_writeLogic_outcome {i : Instr} {x : RegIdx} {result : Byte}
    (h : exec i s = .next (s.writeLogic x result)) :
    ∃ t, exec i s = .next t ∧ FrameRegs (if s.params.logicVfReset then [x, vf] else [x]) s t ∧ t.pc = s.pc ∧
      (s.params.logicVfReset = true → t.readReg vf = 0) ∧
      ((s.params.logicVfReset = true → x ≠ vf) → t.readReg x = result) := by
  refine ⟨_, h, s.writeLogic_frameRegs x result, s.writeLogic_pc x result, fun hreset => ?_, fun hx => ?_⟩
  · rw [State.readReg_writeLogic, if_pos ⟨hreset, rfl⟩]
  · have hresult : ¬ (s.params.logicVfReset = true ∧ x = vf) := fun ⟨hreset, hvf⟩ => hx hreset hvf
    rw [State.readReg_writeLogic, if_neg hresult, if_pos rfl]

/-- Settles O35: each of the three is a logic write, of a result that its operation makes bit by bit. -/
theorem logicCombinesBitwise : Obligations.LogicCombinesBitwise := fun s x y i f n hi hx hy => by
  have hreads : (s.regWritten x && s.regWritten y) = true := Bool.and_eq_true_iff.mpr ⟨hx, hy⟩
  obtain ⟨hword, result, hexec, hbits⟩ : Laws.WordNumber.Statement i ∧ ∃ result,
      exec i s = .next (s.writeLogic x result) ∧
        ∀ k, result.getLsbD k = f ((s.readReg x).getLsbD k) ((s.readReg y).getLsbD k) := by
    rcases hi with ⟨rfl, rfl, -⟩ | ⟨rfl, rfl, -⟩ | ⟨rfl, rfl, -⟩
    · exact ⟨Laws.WordNumber.orReg x y, _, exec_of_readable (i := .orReg x y) hreads, fun _ => BitVec.getLsbD_or⟩
    · exact ⟨Laws.WordNumber.andReg x y, _, exec_of_readable (i := .andReg x y) hreads, fun _ => BitVec.getLsbD_and⟩
    · exact ⟨Laws.WordNumber.xorReg x y, _, exec_of_readable (i := .xorReg x y) hreads, fun _ => BitVec.getLsbD_xor⟩
  have hnumber : Laws.wordNumber i = 0x8000 + 0x100 * x.val + 0x10 * y.val + n := by
    rcases hi with ⟨rfl, -, rfl⟩ | ⟨rfl, -, rfl⟩ | ⟨rfl, -, rfl⟩ <;>
      · simp only [Laws.wordNumber]
        omega
  obtain ⟨t, hnext, hframe, hpc, hvf, hresult⟩ := exec_writeLogic_outcome hexec
  exact ⟨hnumber ▸ hasWord_wordNumber hword, t, hnext, hframe, hpc, hvf, fun hne k _ => hresult hne ▸ hbits k⟩

/-! ## Shifts -/

theorem State.shiftReg_eq {x y r : RegIdx}
    (h : s.params.shiftSrc = .vy ∧ r = y ∨ s.params.shiftSrc = .vx ∧ r = x) : s.shiftReg x y = r := by
  rcases h with ⟨hsrc, rfl⟩ | ⟨hsrc, rfl⟩
  · rw [State.shiftReg, hsrc]
  · rw [State.shiftReg, hsrc]

theorem lowBitFlag_toNat (a : Byte) : (lowBitFlag a).toNat = a.toNat % 2 := by
  rw [lowBitFlag, BitVec.toNat_and]
  exact Nat.and_two_pow_sub_one_eq_mod a.toNat 1

theorem highBitFlag_toNat (a : Byte) : (highBitFlag a).toNat = a.toNat / 128 := by
  rw [highBitFlag, BitVec.toNat_ushiftRight, Nat.shiftRight_eq_div_pow]

theorem toNat_byte_shr_one (a : Byte) : (a >>> 1).toNat = a.toNat / 2 := by
  rw [BitVec.toNat_ushiftRight, Nat.shiftRight_eq_div_pow]

theorem toNat_byte_shl_one (a : Byte) : (a <<< 1).toNat = 2 * a.toNat % 256 := by
  rw [BitVec.toNat_shiftLeft, Nat.shiftLeft_eq, Nat.mul_comm]

/-- Settles O38: the operand is that of `SHIFT_SRC`, and the flag is written last. -/
theorem shiftsMoveOneBit : Obligations.ShiftsMoveOneBit := fun s x y r hr hwritten => by
  obtain rfl := State.shiftReg_eq hr
  obtain ⟨t, hshr, hframe, hpc, hresult, hflag⟩ :=
    exec_writeWithFlag_outcome (exec_of_readable (i := .shr x y) hwritten) (toNat_byte_shr_one _) rfl
  obtain ⟨u, hshl, hframe', hpc', hresult', hflag'⟩ :=
    exec_writeWithFlag_outcome (exec_of_readable (i := .shl x y) hwritten) (toNat_byte_shl_one _) rfl
  exact ⟨⟨hasWord_wordNumber (Laws.WordNumber.shr x y), t, hshr, hframe, hpc, hresult, hflag ▸ lowBitFlag_toNat _⟩,
    hasWord_wordNumber (Laws.WordNumber.shl x y), u, hshl, hframe', hpc', hresult', hflag' ▸ highBitFlag_toNat _⟩

/-! ## The random byte -/

/-- Settles O39: one draw is taken off the queue, then one register written; a queued byte is the one drawn. -/
theorem randomByteIsMasked : Obligations.RandomByteIsMasked := fun s x nn =>
  ⟨hasWord_wordNumber (Laws.WordNumber.rnd x nn),
    ⟨_, rfl, s.afterRand.writeReg_frameRegs x _, rfl, s.afterRand.readReg_writeReg_self x _, rfl, rfl, rfl⟩,
    fun _ => ⟨_, rfl, State.readReg_writeReg_self _ x _⟩⟩

/-! ## The index register -/

theorem toNat_index_add (i : Word) (b : Byte) : (i + b.setWidth 16).toNat = (i.toNat + b.toNat) % 65536 := by
  rw [BitVec.toNat_add, BitVec.toNat_setWidth_of_le (by decide)]

/-- The glyph of a low nibble lies below 4095 + 80, within 16 bits. -/
theorem State.glyphAddr_toNat (s : State) (v : Byte) :
    (s.glyphAddr v).toNat = s.params.fontBase.toNat + 5 * (v.toNat % 16) := by
  have hnibble : (v &&& 0x0F#8).toNat = v.toNat % 16 := by
    rw [BitVec.toNat_and]
    exact Nat.and_two_pow_sub_one_eq_mod v.toNat 4
  have hfont : s.params.fontBase.toNat < 4096 := s.params.fontBase.isLt
  rw [State.glyphAddr, hnibble, BitVec.toNat_ofNat]
  omega

/-- Settles O41: each is one write of `I`. -/
theorem indexAddsAndFindsGlyphs : Obligations.IndexAddsAndFindsGlyphs := fun s x hx =>
  ⟨hasWord_wordNumber (Laws.WordNumber.addI x), hasWord_wordNumber (Laws.WordNumber.ldFont x),
    fun hi => exec_writeIndex_outcome (exec_of_readable (i := .addI x) (Bool.and_eq_true_iff.mpr ⟨hi, hx⟩))
      (toNat_index_add _ _),
    exec_writeIndex_outcome (exec_of_readable (i := .ldFont x) hx) (s.glyphAddr_toNat _)⟩

/-! ## The sprite -/

/-- Settles O47: the rows are the `n` bytes at `I`, the coordinates are read before the flag is written. -/
theorem drawWritesBufferAndFlag : Obligations.DrawWritesBufferAndFlag := fun s x y n hx hy hi hbytes => by
  have hreadable : s.readable (.drw x y n) = true := by
    simp [State.readable, hx, hy, hi, (s.memWrittenRun_iff (s.dataAddr 0) n.val).mpr hbytes]
  exact ⟨hasWord_wordNumber (Laws.WordNumber.drw x y n), _, s.spriteBytes n.val, exec_of_readable hreadable,
    s.memReadList_length _ _, s.memReadList_getElem _ _, rfl, State.readReg_writeReg_self _ vf _, rfl,
    State.writeReg_frameRegs _ vf _⟩

end Sys2Proof.Machine
end
